-- ==== Sys2Proof/Word.lean ====
section
/-!
DEFINITION. The words of the QuarkOS console controller: bytes, the 16-bit port word (20_memory.md R41), the 24-bit
command word (30_encoding.md R67), and the byte-or-⊥ contents of the state that rule R19 of 10_state.md names.
-/

namespace Sys2Proof

/-- One byte: a framebuffer byte, an 8-bit register, a scan code. -/
abbrev Byte := BitVec 8

/-- A port word, 16 bits (20_memory.md R41): ARG and RES. -/
abbrev Word := BitVec 16

/-- The 24-bit command word `W = op : ARG` (30_encoding.md R64, R67). -/
abbrev CommandWord := BitVec 24

/-- What rule R19 of 10_state.md says an FB byte, CUR_HI, CUR_LO or CRTC_IDX holds: a byte value or the mark ⊥
("unspecified"). ⊥ is the spec's own content of that state and its stated reset value (R31), not the model's want of one. -/
inductive MByte where
  /-- ⊥, "a value the hardware holds but no source fixes" (R19). -/
  | bot
  /-- A byte value. -/
  | val (b : Byte)
  deriving DecidableEq, Repr

end Sys2Proof
end

