-- ==== Sys2Proof/Machine/Params.lean ====
section
/-!
DEFINITION. The parameters whose value the source fixes (00_scope.md R8, the rows marked "source" and "derived") and the
character constants (R9). Each is named once here, so that a corrected literal (R5) is corrected in one place.
-/

namespace Sys2Proof.Machine

/-- ROWS (00_scope.md R8). -/
abbrev rows : Nat := 25
/-- COLS (R8). -/
abbrev cols : Nat := 80
/-- CELL_BYTES (R8). -/
abbrev cellBytes : Nat := 2
/-- ROW_BYTES = COLS x CELL_BYTES = 160 (R8). -/
abbrev rowBytes : Nat := cols * cellBytes
/-- The number of cells of the surface, ROWS x COLS = 2000 (R17). -/
abbrev numCells : Nat := rows * cols
/-- FB_SIZE = ROWS x COLS x CELL_BYTES = 4000 (R8). -/
abbrev fbSize : Nat := rows * cols * cellBytes
/-- LAST_ROW_OFF = (ROWS - 1) x ROW_BYTES = 3840 (R8). -/
abbrev lastRowOff : Nat := (rows - 1) * rowBytes
/-- (ROWS - 1) x COLS = 1920, the cell at the start of the last row (40_display.md R81). -/
abbrev lastRowCell : Nat := (rows - 1) * cols

/-- CUR_HI_INDEX = 14 (R8). -/
abbrev curHiIndex : Byte := 14
/-- CUR_LO_INDEX = 15 (R8). -/
abbrev curLoIndex : Byte := 15

/-- PRINT_LO = 0x02 (R8). -/
abbrev printLo : Byte := 0x02
/-- PRINT_HI = 0x35 (R8). -/
abbrev printHi : Byte := 0x35
/-- KBD_AVAIL_BIT = 0, the bit of the status register (R8). -/
abbrev kbdAvailBit : Nat := 0
/-- RELEASE_BIT = 7, the bit of a scan code (R8). -/
abbrev releaseBit : Nat := 7
/-- The lowest bit of the foreground colour index, `a[3:0]` (10_state.md R18). -/
abbrev foregroundBit : Nat := 0
/-- The lowest bit of the background colour index, `a[7:4]` (10_state.md R18). -/
abbrev backgroundBit : Nat := 4

/-- The number of entries of a translation table, one for each code of [PRINT_LO, PRINT_HI] (R8, R26). -/
abbrev tableSize : Nat := 52
/-- SHIFT_CODE_A = 0x2A (R8). -/
abbrev shiftCodeA : Byte := 0x2A
/-- The scan code whose two table entries the source fixes (41_keyboard.md R117). -/
abbrev codeOfA : Byte := 0x1E

/-- NL, `'\n'` (R9). -/
abbrev chNL : Byte := 0x0A
/-- BS, `'\b'` (R9). -/
abbrev chBS : Byte := 0x08
/-- SP, the space (R9). -/
abbrev chSP : Byte := 0x20
/-- `'a'` (R9). -/
abbrev chLowerA : Byte := 0x61
/-- `'A'` (R9). -/
abbrev chUpperA : Byte := 0x41
/-- NUL, the blank cell's character byte and the line terminator (R9). -/
abbrev chNUL : Byte := 0x00

end Sys2Proof.Machine
end

