-- ==== Sys2Proof/Config.lean ====
section
/-!
DEFINITION. The configuration of 00_scope.md rule R8: every parameter the source leaves OPEN, as plain data that the
machine's state carries together with the proof that R8 and 41_keyboard.md R117 admit it, and that no step changes (log entry 2);
and the free values of the model as constants without a body.
-/

namespace Sys2Proof

open Sys2Proof.Machine

/-- The OPEN parameters of 00_scope.md R8. Which values are admitted is `Config.valid`. -/
structure Config where
  /-- SHIFT_CODE_B, the second shift key's base code (92_eei_decisions.md D15). -/
  shiftCodeB : Byte
  /-- SPACE_CODE, the space bar's base code (D16). -/
  spaceCode : Byte
  /-- UNSHIFTED: entry number `c - PRINT_LO` is the character of code `c`, `none` for NONE (D17). -/
  unshifted : List (Option Byte)
  /-- SHIFTED, in the same order (D17). -/
  shifted : List (Option Byte)
  /-- DEFAULT_ATTR (D14). -/
  defaultAttr : Byte
  /-- FB_BASE, a host physical address (D3). -/
  fbBase : Nat
  /-- CRTC_INDEX_PORT (D2). -/
  crtcIndexPort : Word
  /-- CRTC_DATA_PORT (D2). -/
  crtcDataPort : Word
  /-- KBD_STATUS_PORT (D2). -/
  kbdStatusPort : Word
  /-- KBD_DATA_PORT (D2). -/
  kbdDataPort : Word
  /-- CTRL_BASE (D2, D4). -/
  ctrlBase : Word
  /-- ECHO_ATTR, of the host routine read_line only (D30). -/
  echoAttr : Byte
  /-- NL_ECHO_ATTR, of the host routine read_line only (D30). -/
  nlEchoAttr : Byte
  deriving DecidableEq, Repr

/-! ### Which configurations are admitted -/

/-- A 7-bit code 0x01..0x7F (00_scope.md R8, SHIFT_CODE_B and SPACE_CODE). -/
def Config.isKeyCode (c : Byte) : Bool := decide (1 ≤ c.toNat) && decide (c.toNat ≤ 0x7F)

/-- A table has 52 entries, each NONE or a byte 0x01..0xFF, and its entry for 0x1E is the one the source fixes
(R8, 41_keyboard.md R117). -/
def Config.tableOk (t : List (Option Byte)) (a : Byte) : Bool :=
  decide (t.length = tableSize) && t.all (fun e => e != some 0) && decide (t[codeOfA.toNat - printLo.toNat]? = some (some a))

/-- The numbers of the ten decoded ports (R8, 30_encoding.md R60). -/
def Config.portNumbers (c : Config) : List Nat :=
  [c.crtcIndexPort.toNat, c.crtcDataPort.toNat, c.kbdStatusPort.toNat, c.kbdDataPort.toNat, c.ctrlBase.toNat, c.ctrlBase.toNat + 1,
    c.ctrlBase.toNat + 2, c.ctrlBase.toNat + 3, c.ctrlBase.toNat + 4, c.ctrlBase.toNat + 5]

/-- SHIFT_CODE_B: 7 bits, 0x01..0x7F, different from SHIFT_CODE_A and SPACE_CODE (R8). -/
def Config.shiftCodeBOk (c : Config) : Bool :=
  Config.isKeyCode c.shiftCodeB && c.shiftCodeB != shiftCodeA && c.shiftCodeB != c.spaceCode

/-- SPACE_CODE: 7 bits, 0x01..0x7F, different from SHIFT_CODE_A (R8; 90_conflicts.md C10). -/
def Config.spaceCodeOk (c : Config) : Bool := Config.isKeyCode c.spaceCode && c.spaceCode != shiftCodeA

/-- CTRL_BASE is even, CTRL_BASE + 5 <= 0xFFFF, and all ten ports are distinct (R8; 20_memory.md R48). -/
def Config.portsOk (c : Config) : Bool :=
  decide (c.ctrlBase.toNat % 2 = 0) && decide (c.ctrlBase.toNat + 5 ≤ 0xFFFF) && decide c.portNumbers.Nodup

/-- The constraints on a configuration (00_scope.md R8). -/
def Config.valid (c : Config) : Bool :=
  c.shiftCodeBOk && c.spaceCodeOk && Config.tableOk c.unshifted chLowerA && Config.tableOk c.shifted chUpperA && c.portsOk

/-! ### The reference configuration -/

/-- UNSHIFTED of the reference configuration (93_implementation_defined.md G5, not normative). -/
def Config.referenceUnshifted : List (Option Byte) :=
  [some 0x31, some 0x32, some 0x33, some 0x34, some 0x35, some 0x36, some 0x37, some 0x38, some 0x39, some 0x30, some 0x2D,
    some 0x3D, some 0x08, none] ++
  [some 0x71, some 0x77, some 0x65, some 0x72, some 0x74, some 0x79, some 0x75, some 0x69, some 0x6F, some 0x70, some 0x5B,
    some 0x5D, some 0x0A, none] ++
  [some 0x61, some 0x73, some 0x64, some 0x66, some 0x67, some 0x68, some 0x6A, some 0x6B, some 0x6C, some 0x3B, some 0x27,
    some 0x60, none, some 0x5C] ++
  [some 0x7A, some 0x78, some 0x63, some 0x76, some 0x62, some 0x6E, some 0x6D, some 0x2C, some 0x2E, some 0x2F]

/-- SHIFTED of the reference configuration (G5, not normative). -/
def Config.referenceShifted : List (Option Byte) :=
  [some 0x21, some 0x40, some 0x23, some 0x24, some 0x25, some 0x5E, some 0x26, some 0x2A, some 0x28, some 0x29, some 0x5F,
    some 0x2B, some 0x08, none] ++
  [some 0x51, some 0x57, some 0x45, some 0x52, some 0x54, some 0x59, some 0x55, some 0x49, some 0x4F, some 0x50, some 0x7B,
    some 0x7D, some 0x0A, none] ++
  [some 0x41, some 0x53, some 0x44, some 0x46, some 0x47, some 0x48, some 0x4A, some 0x4B, some 0x4C, some 0x3A, some 0x22,
    some 0x7E, none, some 0x7C] ++
  [some 0x5A, some 0x58, some 0x43, some 0x56, some 0x42, some 0x4E, some 0x4D, some 0x3C, some 0x3E, some 0x3F]

/-- The reference configuration (93_implementation_defined.md G5). It is NOT normative: no meaning and no statement
uses it. It shows that R8's constraints can be met, and it is an instance to try the model on. -/
def Config.reference : Config where
  shiftCodeB := 0x36
  spaceCode := 0x39
  unshifted := Config.referenceUnshifted
  shifted := Config.referenceShifted
  defaultAttr := 0x0F
  fbBase := 0xB8000
  crtcIndexPort := 0x3D4
  crtcDataPort := 0x3D5
  kbdStatusPort := 0x64
  kbdDataPort := 0x60
  ctrlBase := 0x0E00
  echoAttr := 0x0F
  nlEchoAttr := 0x02

/-- A configuration that R8 and R117 admit: the parameters with the proof. The field defaults only show that the type has an
element. -/
structure AdmittedConfig where
  /-- The OPEN parameters. -/
  params : Config := Config.reference
  /-- The constraints of R8 and R117 hold. -/
  admitted : params.valid = true := by decide +kernel
  deriving DecidableEq, Repr, Inhabited

/-! ### What the spec leaves open: nothing is known of these constants -/

/-- The configuration of the machine at hand, which the spec leaves OPEN (R8): any admitted one (log entry 2). -/
opaque Config.platform : AdmittedConfig

/-- `draw()` (00_scope.md R11): the byte the environment chooses at the n-th draw. Nothing is known of it (log entry 3). -/
opaque Config.freeByte : Nat → Byte

/-- Host arithmetic `a - b` with `a < b`, whose value the spec does not state (R10 has naturals only; log entry 13). -/
opaque Config.freeDifference : Nat → Nat → Nat

/-- Host arithmetic `a div 0`, whose value the spec does not state (log entry 13). -/
opaque Config.freeQuotient : Nat → Nat

/-- Host arithmetic `a mod 0`, whose value the spec does not state (log entry 13). -/
opaque Config.freeRemainder : Nat → Nat

/-- The keyboard environment's move at the n-th turn (41_keyboard.md R109): the code it delivers, or none where the host moves.
Nothing is known of it, so any number of deliveries may come, at any time, or none ever (log entry 5). -/
opaque Config.arrival : Nat → Option Byte

/-- The byte that a byte store of the host's value `v > 0xFF` stores, where no rule takes it modulo 256 (R10; log entry 12). -/
opaque Config.freeByteOf : Nat → Byte

/-- The word that a word store of the host's value `v > 0xFFFF` stores, where no rule takes it modulo 65536 (R10; log entry 12). -/
opaque Config.freeWordOf : Nat → Word

end Sys2Proof
end

