-- ==== Sys2Proof/Machine/HostSyntax.lean ====
section
/-!
DEFINITION. The host's statements (30_encoding.md R75, R76): port and framebuffer accesses, assignments to temporaries, jumps
and returns, and the two statements that the host routine read_line needs beside them (45_host_routines.md R136, R138).
They are plain data, so that the host agent of 00_scope.md R12 can stand in the state.
-/

namespace Sys2Proof.Machine

/-- The ports the block decodes, by name (30_encoding.md R60). -/
inductive Port where
  /-- CRTC_INDEX_PORT. -/
  | crtcIndex
  /-- CRTC_DATA_PORT. -/
  | crtcData
  /-- KBD_STATUS_PORT. -/
  | kbdStatus
  /-- KBD_DATA_PORT. -/
  | kbdData
  /-- CTRL_BASE + 0, CMD. -/
  | cmd
  /-- CTRL_BASE + 1, no register. -/
  | ctrl1
  /-- CTRL_BASE + 2, ARG. -/
  | arg
  /-- CTRL_BASE + 3, no register (the high byte of the ARG word). -/
  | ctrl3
  /-- CTRL_BASE + 4, RES. -/
  | res
  /-- CTRL_BASE + 5, no register (the high byte of the RES word). -/
  | ctrl5
  deriving DecidableEq, Repr

/-- The width of an access, n in 1, 2 bytes (00_scope.md R11). -/
inductive Width where
  /-- One byte: outb, inb, stb, ldb. -/
  | byte
  /-- Two bytes: outw, inw, stw, ldw. -/
  | word
  deriving DecidableEq, Repr

/-- The direction of an access. -/
inductive Dir where
  | read
  | write
  deriving DecidableEq, Repr

/-- The operators of host arithmetic on naturals (00_scope.md R10; `-` occurs in 45_host_routines.md R136). -/
inductive BinOp where
  | add | sub | mul | div | mod | and | or | shr
  deriving DecidableEq, Repr

/-- An expression over temporaries and constants (30_encoding.md R76). -/
inductive Expr where
  /-- A constant. -/
  | lit (n : Nat)
  /-- The temporary `t k`. -/
  | temp (k : Nat)
  /-- An operator applied to two expressions. -/
  | bin (o : BinOp) (a b : Expr)
  deriving DecidableEq, Repr

/-- The comparisons of the host's conditions (30_encoding.md R76). -/
inductive Rel where
  | eq | ne | lt | le | gt | ge
  deriving DecidableEq, Repr

/-- The condition of `if cond goto L` (30_encoding.md R76). -/
structure Cond where
  rel : Rel
  lhs : Expr
  rhs : Expr
  deriving DecidableEq, Repr

/-- The port operand of a statement: a port name (30_encoding.md R75) or a 16-bit port address (20_memory.md R40). -/
inductive PortRef where
  | named (p : Port)
  | addr (a : Word)
  deriving DecidableEq, Repr

/-- The memory operand of a statement: `FB+o` (30_encoding.md R75) or a host physical address (20_memory.md R42). -/
inductive MemRef where
  | fb (o : Expr)
  | abs (a : Expr)
  deriving DecidableEq, Repr

/-- A statement of a host program (30_encoding.md R75, R76). A label is the number of the statement it stands at (R76). -/
inductive Stmt where
  /-- `outb P, v` and `outw P, v`. -/
  | out (w : Width) (p : PortRef) (v : Expr)
  /-- `inb P -> tN` and `inw P -> tN`. -/
  | inp (w : Width) (p : PortRef) (dst : Nat)
  /-- `stb FB+o, v` and `stw FB+o, v`. -/
  | st (w : Width) (m : MemRef) (v : Expr)
  /-- `ldb FB+o -> tN` and `ldw FB+o -> tN`. -/
  | ld (w : Width) (m : MemRef) (dst : Nat)
  /-- `tN <- expr`. -/
  | assign (dst : Nat) (e : Expr)
  /-- `goto L`. -/
  | jump (target : Nat)
  /-- `if cond goto L`. -/
  | jumpIf (c : Cond) (target : Nat)
  /-- `return` and `return e`. -/
  | ret (e : Option Expr)
  /-- A store of the byte `v` at the address `i` of the host memory that line buffers lie in (45_host_routines.md R136). -/
  | bufStore (i v : Expr)
  /-- The check at a call of read_line: capacity 0 is refused (45_host_routines.md R138). -/
  | needCapacity (cap : Expr)
  deriving DecidableEq, Repr

/-- Whose turn a step is (00_scope.md R12): the host's, or the keyboard environment's with the byte it delivers
(41_keyboard.md R109). -/
inductive Turn where
  | host
  | key (s : Byte)
  deriving DecidableEq, Repr

end Sys2Proof.Machine
end

