-- ==== Sys2Proof/Syntax.lean ====
section
/-!
DEFINITION. The commands of the block, one constructor for each row of spec/opcode_table.json (30_encoding.md R71). A
constructor carries the operands the command reads (R70); don't-care bits (R69) are no part of it (log entry 17).
-/

namespace Sys2Proof

/-- A command of the block (30_encoding.md R70, R71). -/
inductive Instr where
  /-- PUTC, format C: the colour attribute A = W[15:8] and the symbol S = W[7:0] (40_display.md R82). -/
  | putc (attr sym : Byte)
  /-- CLEAR, format N (R86). -/
  | clear
  /-- SCROLL, format N (R87). -/
  | scroll
  /-- TRANSLATE, format K: the scan code K = W[7:0] (41_keyboard.md R118). -/
  | translate (code : Byte)
  deriving DecidableEq, Repr

end Sys2Proof
end

