-- ==== Sys2Proof/WellFormed.lean ====
section
/-!
DEFINITION. What is well formed: a command and a host program. What configuration is admitted is `Config.valid` (Config.lean).
-/

namespace Sys2Proof

open Sys2Proof.Machine

/-- Every operand is an unsigned byte taken verbatim and no field has a reserved value (30_encoding.md R68, R72), and the
operand types of `Instr` hold exactly a byte each, so no command is ill formed. -/
def Instr.wellFormed : Instr → Bool
  | .putc _ _ => true
  | .clear => true
  | .scroll => true
  | .translate _ => true

/-- A jump's label is a statement of the program or its end (30_encoding.md R76). -/
def Machine.Stmt.wellFormed (len : Nat) : Stmt → Bool
  | .jump t => decide (t ≤ len)
  | .jumpIf _ t => decide (t ≤ len)
  | .out .. | .inp .. | .st .. | .ld .. | .assign .. | .ret _ | .bufStore .. | .needCapacity _ => true

/-- Every statement of a host program is well formed (R76). -/
def Machine.programWellFormed (p : List Stmt) : Bool := p.all (Stmt.wellFormed p.length)

end Sys2Proof
end

