-- ==== Sys2Proof/Decode.lean ====
section
/-!
DEFINITION. The decoder and the encoder of the 24-bit command word (30_encoding.md R64, R67 to R73). The decoder is total: a
reserved opcode is rejected by name (R72).
-/

namespace Sys2Proof

/-- Why a command word has no command. -/
inductive DecodeError where
  /-- The opcode is 0x00 or 0x05..0xFF (30_encoding.md R72). -/
  | reservedOpcode (op : Byte)
  deriving DecidableEq, Repr

/-- `a : b`, the 16-bit value a x 256 + b (00_scope.md R10). -/
def hiLo (a b : Byte) : Word := a ++ b

/-- The command word `W = op : ARG` (30_encoding.md R64). -/
def commandWord (op : Byte) (arg : Word) : CommandWord := op ++ arg

/-- W[23:16] (30_encoding.md R64). -/
def opcodeField (w : CommandWord) : Byte := w.extractLsb' 16 8
/-- W[15:8], the field A of format C (R67). -/
def attrField (w : CommandWord) : Byte := w.extractLsb' 8 8
/-- W[7:0], the field S of format C and K of format K (R67). -/
def lowField (w : CommandWord) : Byte := w.extractLsb' 0 8

/-- The opcode map (30_encoding.md R71). -/
def Instr.opcode : Instr → Byte
  | .putc _ _ => 0x01
  | .clear => 0x02
  | .scroll => 0x03
  | .translate _ => 0x04

/-- The command of a command word, or why there is none: the format is told from W[23:16] alone (R73), operands are taken
verbatim (R68), don't-care bits are ignored (R69), every other opcode is reserved (R71, R72). -/
def decode (w : CommandWord) : Except DecodeError Instr :=
  if opcodeField w = 0x01 then .ok (.putc (attrField w) (lowField w))
  else if opcodeField w = 0x02 then .ok .clear
  else if opcodeField w = 0x03 then .ok .scroll
  else if opcodeField w = 0x04 then .ok (.translate (lowField w))
  else .error (.reservedOpcode (opcodeField w))

/-- W[15:0] of the canonical encoding: the operands in their fields (R67), don't-care bits 0 (log entry 17). -/
def Instr.argWord : Instr → Word
  | .putc a s => hiLo a s
  | .clear => 0
  | .scroll => 0
  | .translate k => hiLo 0 k

/-- The canonical command word of a command (R67, R71). -/
def encode (i : Instr) : CommandWord := commandWord i.opcode i.argWord

/-- The bits of the command word that select and parametrise the command: every bit but the don't-care bits (R67, R69). -/
def significantBits : Instr → CommandWord
  | .putc _ _ => 0xFFFFFF
  | .clear => 0xFF0000
  | .scroll => 0xFF0000
  | .translate _ => 0xFF00FF

/-- The instruction this decoder reads from the bits `w` of a table row (bit 0 the least significant bit of the 24-bit command
word, as spec/opcode_table.json numbers it), with every bit from `nbits` up 0. -/
def decodeTableWord (nbits w : Nat) : Option Instr :=
  match decode (BitVec.ofNat 24 (w % 2 ^ nbits)) with
  | .ok i => some i
  | .error _ => none

end Sys2Proof
end

