-- ==== Sys2Proof/Machine/State.lean ====
section
/-!
DEFINITION. The state of the machine as plain data: the block's registers and framebuffer (10_state.md R16 to R31), the model
bookkeeping FAULTS and REFUSED (R32), the configuration (00_scope.md R8), and the two other agents of R12, the host and the
keyboard environment, as data the step reads.
-/

namespace Sys2Proof.Machine

/-- What a host read found unspecified (60_exceptions.md R151: UNINIT_READ records the location). -/
inductive Location where
  /-- FB[o]. -/
  | fb (o : Nat)
  | curHi
  | curLo
  | crtcIdx
  deriving DecidableEq, Repr

/-- The kinds of the model faults of 60_exceptions.md R151, recorded in FAULTS by the step that raises one (R153; log entry 8). The
hardware goes on with a value no source fixes. Safe for a claim about states with FAULTS empty, as R156 asks of every claim ("toward
unprovable"); unsafe for one that leaves that out. -/
inductive FaultKind where
  /-- Raised by PUTC when CUR_HI or CUR_LO is ⊥ (40_display.md R82). -/
  | uninitCursor
  /-- Raised by a host read of a ⊥ FB byte (20_memory.md R43), of a ⊥ cursor half (40_display.md R89) or of CRTC_IDX while ⊥
  (R88). -/
  | uninitRead (loc : Location)
  /-- Raised by a data-port access while CRTC_IDX is ⊥ (40_display.md R89). -/
  | uninitIndex
  /-- Raised by PUTC BS whose target offset p >= FB_SIZE (40_display.md R85). -/
  | surfaceRange (p : Nat)
  deriving DecidableEq, Repr

/-- The faults that a step answers in the place of a next state: there is none. What R151 calls a fault "marks the state, changes
nothing else" (00_scope.md R11), so it is a next state with a FAULTS entry more (R153; log entry 8). -/
inductive Fault where
  deriving DecidableEq, Repr

/-- The refusals: those of 60_exceptions.md R152, and two for accesses that the spec says are not the block's. Each one gives
the access no meaning: safe ("Every refusal errs toward unprovable"). -/
inductive Refusal where
  /-- An instruction whose meaning is not modelled: no arm answers it. Safe. -/
  | notModelled (mnemonic : String)
  /-- Raised by a CMD write of 0x00 or 0x05..0xFF (30_encoding.md R64). Safe. -/
  | reservedOpcode
  /-- Raised by a 16-bit access to an 8-bit register, or an 8-bit access to ARG or RES (30_encoding.md R61). Safe. -/
  | badWidth
  /-- Raised by a write to KBD_STATUS_PORT, KBD_DATA_PORT or CTRL_BASE+4 (R61). Safe. -/
  | readOnly
  /-- Raised by a read of CTRL_BASE+0 (R61). Safe. -/
  | writeOnly
  /-- Raised by any access at CTRL_BASE+1, +3 or +5 (R61). Safe. -/
  | noRegister
  /-- Raised by a 16-bit framebuffer access at an odd offset (20_memory.md R43, R44). Safe. -/
  | misaligned
  /-- Raised by a framebuffer access that starts inside the window and ends outside it (20_memory.md R42). Safe. -/
  | windowOverrun
  /-- Raised by a cursor data-port write with CRTC_IDX not 14 or 15 (40_display.md R89). Safe. -/
  | unmodelledIndex
  /-- Raised by the host routine read_line with cap = 0 (45_host_routines.md R138). Safe. -/
  | zeroCapacity
  /-- Raised by an access to a port outside the register map, which is "not the block's" (30_encoding.md R61; log entry 11).
  Safe. -/
  | foreignPort
  /-- Raised by a memory access that starts outside the framebuffer window, which is "not the block's" (20_memory.md R42;
  log entry 11). Safe. -/
  | foreignAddress
  deriving DecidableEq, Repr

/-- A fault record: the fault's kind and the host statement that raised it, by its number (10_state.md R32). -/
structure FaultRecord where
  kind : FaultKind
  pc : Nat
  deriving DecidableEq, Repr

/-- The machine's state: INVENTORY.md lists each field with its rule. -/
structure State where
  /-- The configuration, an admitted one (00_scope.md R8, 41_keyboard.md R117). No step changes it (10_state.md R26). -/
  config : AdmittedConfig
  /-- FB (10_state.md R16) as the bytes that are not ⊥: offset and byte, offsets strictly rising. -/
  fb : List Host.Cell
  /-- CUR_HI (R20). -/
  curHi : MByte
  /-- CUR_LO (R20). -/
  curLo : MByte
  /-- CRTC_IDX (R23). -/
  crtcIdx : MByte
  /-- SHIFT (R24). -/
  shift : Bool
  /-- KBD_BUF (R25). -/
  kbdBuf : Byte
  /-- KBD_OBF (R25). -/
  kbdObf : Bool
  /-- ARG (R27). -/
  arg : Word
  /-- RES (R28). -/
  res : Word
  /-- FAULTS (R32), oldest first. -/
  faults : List FaultRecord
  /-- REFUSED (R32). -/
  refused : Bool
  /-- The host's program, a numbered list of statements (30_encoding.md R76). -/
  program : List Stmt
  /-- The host's pc, a statement number (10_state.md R15, 30_encoding.md R76). -/
  pc : Nat
  /-- The host's temporaries that are not 0 (30_encoding.md R76): number and value, numbers strictly rising. -/
  temps : List (Nat × Nat)
  /-- The bytes written to the host memory that line buffers lie in (45_host_routines.md R136; log entry 19): address and byte,
  addresses strictly rising. -/
  buf : List Host.Cell
  /-- What the host program returned (`return e`, 30_encoding.md R76). -/
  returned : Option Nat
  /-- The turns that are settled already, the next first (00_scope.md R12, 41_keyboard.md R109; log entry 5). When none is left each
  turn is free. The model's own. -/
  schedule : List Turn
  /-- How many turns have been taken (log entry 5). The model's own. -/
  turns : Nat
  /-- How many draws have been made (00_scope.md R11; log entry 3). The model's own. -/
  draws : Nat
  deriving DecidableEq, Repr

/-- The configuration's parameters. -/
def State.cfg (s : State) : Config := s.config.params

/-- The state after the reset event (10_state.md R31, 70_reset_and_hazards.md R170) of a machine with configuration `c`: no host
program is loaded (log entry 6) and no turn is settled (log entry 5). -/
def State.resetWith (c : AdmittedConfig) : State where
  config := c
  fb := []
  curHi := .bot
  curLo := .bot
  crtcIdx := .bot
  shift := false
  kbdBuf := 0x00
  kbdObf := false
  arg := 0x0000
  res := 0x0000
  faults := []
  refused := false
  program := []
  pc := 0
  temps := []
  buf := []
  returned := none
  schedule := []
  turns := 0
  draws := 0

/-- The state after the reset event of the machine at hand (R170), whose configuration the spec leaves OPEN (log entry 2). -/
def State.reset : State := State.resetWith Config.platform

end Sys2Proof.Machine
end

