-- ==== Sys2Proof/Machine/Ops.lean ====
section
/-!
DEFINITION. The named operations on the state: sparse lists in canonical form, the framebuffer byte by byte, the cursor
(10_state.md R19 to R22), positions (40_display.md R80), the free draw (00_scope.md R11), and the recording of a fault or a
refusal (60_exceptions.md R153), which is all this block has in the place of an exception: rule R156 says that no trap is
ever entered, nothing is saved and there is no return from one.
-/

namespace Sys2Proof.Machine

/-! ### Outcomes -/

/-- Continue after a next state; stop at a refusal. -/
def andThen {σ τ : Type} (o : Host.Outcome σ Fault Refusal) (k : σ → Host.Outcome τ Fault Refusal) :
    Host.Outcome τ Fault Refusal :=
  match o with
  | .next s => k s
  | .fault f => .fault f
  | .refused r => .refused r

/-- The next state of an outcome, if it is one. -/
def nextOf {σ : Type} (o : Host.Outcome σ Fault Refusal) : Option σ :=
  match o with
  | .next s => some s
  | .fault _ => none
  | .refused _ => none

/-- The refusal of an outcome, if it is one. -/
def refusalOf {σ : Type} (o : Host.Outcome σ Fault Refusal) : Option Refusal :=
  match o with
  | .next _ => none
  | .fault _ => none
  | .refused r => some r

/-! ### Sparse lists: keys strictly rising -/

/-- The value listed at a key. -/
def Sparse.get {β : Type} : List (Nat × β) → Nat → Option β
  | [], _ => none
  | (k', v) :: r, k => if k' = k then some v else Sparse.get r k

/-- List a value at a key, in the key's place. -/
def Sparse.put {β : Type} (k : Nat) (v : β) : List (Nat × β) → List (Nat × β)
  | [] => [(k, v)]
  | (k', v') :: r =>
    if k < k' then (k, v) :: (k', v') :: r
    else if k = k' then (k, v) :: r
    else (k', v') :: Sparse.put k v r

/-- Unlist a key. -/
def Sparse.erase {β : Type} (k : Nat) (l : List (Nat × β)) : List (Nat × β) := l.filter (fun c => c.1 != k)

/-- The keys rise strictly, and the first is at least `lo`. -/
def Sparse.rising {β : Type} : Nat → List (Nat × β) → Bool
  | _, [] => true
  | lo, (k, _) :: r => decide (lo ≤ k) && Sparse.rising (k + 1) r

/-! ### The framebuffer -/

/-- `FB[o]` (00_scope.md R11): a byte that is not listed is ⊥, the reset content (10_state.md R31; log entry 4). -/
def Memory.read (m : List Host.Cell) (o : Nat) : MByte :=
  match Sparse.get m o with
  | some b => .val b
  | none => .bot

/-- `FB[o] <- v` for a byte `v`, which replaces ⊥ (10_state.md R19). -/
def Memory.write (m : List Host.Cell) (o : Nat) (b : Byte) : List Host.Cell := Sparse.put o b m

/-- `FB[o] <- x` where `x` may be the mark: copying ⊥ moves the mark (10_state.md R19). -/
def Memory.copyTo (m : List Host.Cell) (o : Nat) (x : MByte) : List Host.Cell :=
  match x with
  | .val b => Memory.write m o b
  | .bot => Sparse.erase o m

/-- The canonical form of the framebuffer: offsets strictly rising and below FB_SIZE; a ⊥ byte is not listed. -/
def Memory.wf (m : List Host.Cell) : Bool := Sparse.rising 0 m && m.all (fun c => decide (c.1 < fbSize))

/-- FB[o] of a state: FB has offsets 0..FB_SIZE-1 only (00_scope.md R11). -/
def State.fbByte (s : State) (o : Nat) : MByte := if o < fbSize then Memory.read s.fb o else .bot

/-- `FB[o] <- b`. The callers have checked `o < FB_SIZE`. -/
def State.setFbByte (s : State) (o : Nat) (b : Byte) : State := { s with fb := Memory.write s.fb o b }

/-- `Cell(i) <- (ch, at)`: the character byte at the even offset 2i and the attribute byte after it (10_state.md R17). -/
def State.setCellAt (s : State) (o : Nat) (ch attr : Byte) : State := (s.setFbByte o ch).setFbByte (o + 1) attr

/-! ### Positions (40_display.md R80) -/

/-- `cell(o) = o div 2`. -/
def cellOf (o : Nat) : Nat := o / cellBytes
/-- `row(o) = o div ROW_BYTES`. -/
def rowOf (o : Nat) : Nat := o / rowBytes
/-- `col(o) = (o mod ROW_BYTES) div 2`. -/
def colOf (o : Nat) : Nat := o % rowBytes / cellBytes
/-- The offset of the cell at row r and column c. -/
def cellOffset (r c : Nat) : Nat := r * rowBytes + cellBytes * c

/-! ### The cursor (10_state.md R20 to R22) -/

/-- CUR, defined only when both halves are not ⊥ (R20). -/
def State.cur (s : State) : Option Nat :=
  match s.curHi, s.curLo with
  | .val h, .val l => some (h.toNat * 256 + l.toNat)
  | _, _ => none

/-- `SetCur(v)`: both halves together (10_state.md R20, 40_display.md R80). -/
def State.setCur (s : State) (v : Nat) : State :=
  { s with curHi := .val (BitVec.ofNat 8 (v / 256)), curLo := .val (BitVec.ofNat 8 v) }

/-! ### The free draw (00_scope.md R11) -/

/-- The byte the next draw gives: nothing is known of it (log entry 3). -/
def State.drawn (s : State) : Byte := Config.freeByte s.draws

/-- The state after a draw: only the model's own counter has moved on. -/
def State.afterDraw (s : State) : State := { s with draws := s.draws + 1 }

/-! ### The host's own state (30_encoding.md R76) -/

/-- The value of the temporary `t k` (log entry 14). -/
def State.temp (s : State) (k : Nat) : Nat := (Sparse.get s.temps k).getD 0

/-- `t k <- v`, in canonical form: a temporary that holds 0 is not listed. -/
def State.setTemp (s : State) (k v : Nat) : State :=
  { s with temps := if v = 0 then Sparse.erase k s.temps else Sparse.put k v s.temps }

/-- The pc advances by 1 after a statement (R76). -/
def State.advance (s : State) : State := { s with pc := s.pc + 1 }

/-- The host program has ended: its pc has passed its last statement (R76). -/
def State.ended (s : State) : Bool := decide (s.program.length ≤ s.pc)

/-! ### Faults and refusals (60_exceptions.md R153) -/

/-- The state takes no further host step: a fault or a refusal is recorded (R153). -/
def State.quiescent (s : State) : Bool := !s.faults.isEmpty || s.refused

/-- Append a fault to FAULTS, with the host statement that raised it, and change nothing else (R32, R153). -/
def State.recordFault (s : State) (k : FaultKind) : State := { s with faults := s.faults ++ [⟨k, s.pc⟩] }

/-- Set REFUSED and change nothing else (R152, R153). -/
def State.recordRefusal (s : State) : State := { s with refused := true }

/-- The host's pc after a port or memory access: it advances (30_encoding.md R76), and where the access recorded a fault the host
stays at the statement that raised it, since no further host step is taken (R153; log entry 8). -/
def State.afterAccess (s : State) : State := if s.quiescent then s else s.advance

/-- The host's state after a read into the temporary `t dst`: the value is kept and the pc advances; a read that faulted gives no
value ("no value returned", 20_memory.md R43), and nothing else changes. -/
def State.receive (s : State) (dst : Nat) (v : Option Nat) : State :=
  match v with
  | some n => (s.setTemp dst n).advance
  | none => s

/-- What a statement that began in `s` leaves: its next state, or `s` with the refusal recorded (R153). -/
def State.settle (s : State) (o : Host.Outcome State Fault Refusal) : State :=
  match o with
  | .next t => t
  | .fault f => nomatch f
  | .refused _ => s.recordRefusal

end Sys2Proof.Machine
end

