-- ==== Sys2Proof/Machine/Operands.lean ====
section
/-!
DEFINITION. Operand forms: the value a bus access carries, host expressions and conditions (30_encoding.md R76), the register
map as port operands (R60, R61) and the framebuffer window as memory operands (20_memory.md R42, R46).
-/

namespace Sys2Proof.Machine

/-- v[7:0] (20_memory.md R44). -/
def byteOf (v : Nat) : Byte := BitVec.ofNat 8 v

/-- v[15:8] (R44). -/
def upperByteOf (v : Nat) : Byte := BitVec.ofNat 8 (v / 256)

/-- The byte of a value that a byte store is given. No rule takes a wider value modulo 256 (00_scope.md R10), so what a wider one
stores is free (log entry 12). -/
def exactByte (v : Nat) : Byte := if v < 256 then BitVec.ofNat 8 v else Config.freeByteOf v

/-- The word of a value that a word store is given; what a wider value stores is free (R10; log entry 12). -/
def exactWord (v : Nat) : Word := if v < 65536 then BitVec.ofNat 16 v else Config.freeWordOf v

/-- The number of bytes of an access (00_scope.md R11). -/
def Width.bytes : Width → Nat
  | .byte => 1
  | .word => 2

/-! ### Host expressions -/

/-- An operator of host arithmetic on naturals (00_scope.md R10); the cases the spec states no value for are free (log entry 13). -/
def BinOp.apply (o : BinOp) (a b : Nat) : Nat :=
  match o with
  | .add => a + b
  | .sub => if a < b then Config.freeDifference a b else a - b
  | .mul => a * b
  | .div => if b = 0 then Config.freeQuotient a else a / b
  | .mod => if b = 0 then Config.freeRemainder a else a % b
  | .and => a &&& b
  | .or => a ||| b
  | .shr => a >>> b

/-- The value of a host expression (30_encoding.md R76). -/
def Expr.eval (s : State) : Expr → Nat
  | .lit n => n
  | .temp k => s.temp k
  | .bin o a b => o.apply (Expr.eval s a) (Expr.eval s b)

/-- A comparison of two naturals. -/
def Rel.holds (r : Rel) (a b : Nat) : Bool :=
  match r with
  | .eq => decide (a = b)
  | .ne => decide (a ≠ b)
  | .lt => decide (a < b)
  | .le => decide (a ≤ b)
  | .gt => decide (b < a)
  | .ge => decide (b ≤ a)

/-- Whether a condition holds (30_encoding.md R76). -/
def Cond.holds (s : State) (c : Cond) : Bool := c.rel.holds (c.lhs.eval s) (c.rhs.eval s)

/-! ### The register map (30_encoding.md R60) -/

/-- The width of the register at a port, if one stands there. -/
def Port.width : Port → Option Width
  | .crtcIndex => some .byte
  | .crtcData => some .byte
  | .kbdStatus => some .byte
  | .kbdData => some .byte
  | .cmd => some .byte
  | .ctrl1 => none
  | .arg => some .word
  | .ctrl3 => none
  | .res => some .word
  | .ctrl5 => none

/-- The column "host access" of R60. -/
def Port.admits : Port → Dir → Bool
  | .crtcIndex, _ => true
  | .crtcData, _ => true
  | .kbdStatus, .read => true
  | .kbdStatus, .write => false
  | .kbdData, .read => true
  | .kbdData, .write => false
  | .cmd, .read => false
  | .cmd, .write => true
  | .ctrl1, _ => false
  | .arg, _ => true
  | .ctrl3, _ => false
  | .res, .read => true
  | .res, .write => false
  | .ctrl5, _ => false

/-- Why a port access is not admitted, if it is not (30_encoding.md R61; the order of the checks is log entry 9). -/
def portRefusal (p : Port) (d : Dir) (w : Width) : Option Refusal :=
  match p.width with
  | none => some .noRegister
  | some w' =>
    if w ≠ w' then some .badWidth
    else if p.admits d then none
    else match d with
      | .read => some .writeOnly
      | .write => some .readOnly

/-- The port at a 16-bit address, if it is one the block decodes (20_memory.md R40, 30_encoding.md R60). -/
def portAt (c : Config) (a : Word) : Option Port :=
  if a = c.crtcIndexPort then some .crtcIndex
  else if a = c.crtcDataPort then some .crtcData
  else if a = c.kbdStatusPort then some .kbdStatus
  else if a = c.kbdDataPort then some .kbdData
  else if a.toNat = c.ctrlBase.toNat then some .cmd
  else if a.toNat = c.ctrlBase.toNat + 1 then some .ctrl1
  else if a.toNat = c.ctrlBase.toNat + 2 then some .arg
  else if a.toNat = c.ctrlBase.toNat + 3 then some .ctrl3
  else if a.toNat = c.ctrlBase.toNat + 4 then some .res
  else if a.toNat = c.ctrlBase.toNat + 5 then some .ctrl5
  else none

/-- The port a statement names; a port outside the register map is not the block's (30_encoding.md R61; log entry 11). -/
def PortRef.resolve (s : State) : PortRef → Host.Outcome Port Fault Refusal
  | .named p => .next p
  | .addr a =>
    match portAt s.cfg a with
    | some p => .next p
    | none => .refused .foreignPort

/-! ### The framebuffer window (20_memory.md R42, R46) -/

/-- The host physical address of a memory operand (30_encoding.md R75). -/
def MemRef.address (s : State) : MemRef → Nat
  | .fb o => s.cfg.fbBase + o.eval s
  | .abs a => a.eval s

/-- Whether an access of `n` bytes at offset `o` of the window is admitted, and if not why: an odd offset is refused as
misaligned, also where the access would straddle the end (95_test_vectors.md M5; log entry 10). -/
def windowRefusal (o n : Nat) : Option Refusal :=
  if n = 2 ∧ o % 2 ≠ 0 then some .misaligned
  else if fbSize < o + n then some .windowOverrun
  else none

/-- The window offset that an access of `n` bytes at host physical address `a` reaches (R42, R46). -/
def windowOffset (s : State) (a n : Nat) : Host.Outcome Nat Fault Refusal :=
  if s.cfg.fbBase ≤ a ∧ a < s.cfg.fbBase + fbSize then
    match windowRefusal (a - s.cfg.fbBase) n with
    | none => .next (a - s.cfg.fbBase)
    | some r => .refused r
  else .refused .foreignAddress

end Sys2Proof.Machine
end

