-- ==== Sys2Proof/Machine/Flags.lean ====
section
/-!
DEFINITION. The status bits of the block (10_state.md R30): the SHIFT latch, RES.HAS with the RES word around it, and KBD_OBF
as bit 0 of the keyboard status. The block has no condition codes.
-/

namespace Sys2Proof.Machine

/-- The release flag of a scan code, s[7] (41_keyboard.md R108, R110). -/
def isRelease (s : Byte) : Bool := s.getLsbD releaseBit

/-- A byte with one bit set. -/
def bitMask (i : Nat) : Byte := 1 <<< i

/-- The base code of a scan code, s & 0x7F: the top bit stripped (R110). -/
def baseCode (s : Byte) : Byte := s &&& ~~~bitMask releaseBit

/-- SHIFT after a shift key's code: 1 at the press, 0 at the release (R111). -/
def shiftAfterShiftKey (s : Byte) : Bool := !isRelease s

/-- The RES word of a translation result (10_state.md R28, 41_keyboard.md R118): HAS and CHAR. -/
def resultWord (r : Option Byte) : Word :=
  match r with
  | none => 0x0000
  | some c => 0x0100 ||| c.zeroExtend 16

/-- RES.HAS (10_state.md R28). -/
def resHas (r : Word) : Bool := r.getLsbD 8

/-- RES.CHAR (R28). -/
def resChar (r : Word) : Byte := r.extractLsb' 0 8

/-- The foreground colour index of an attribute byte (10_state.md R18). The block never reads it. -/
def foreground (a : Byte) : BitVec 4 := a.extractLsb' foregroundBit 4

/-- The background colour index of an attribute byte (R18). The block never reads it. -/
def background (a : Byte) : BitVec 4 := a.extractLsb' backgroundBit 4

/-- The keyboard status byte: bit 0 is KBD_OBF, bits 7:1 are those of the draw (41_keyboard.md R106). -/
def statusByte (draw : Byte) (obf : Bool) : Byte := (draw &&& ~~~bitMask kbdAvailBit) ||| (if obf then bitMask kbdAvailBit else 0)

end Sys2Proof.Machine
end

