-- ==== Sys2Proof/Machine/Display.lean ====
section
/-!
DEFINITION. The display unit's commands (40_display.md): ScrollCore (R81, R90), PUTC (R82 to R85), CLEAR (R86), SCROLL (R87).
-/

namespace Sys2Proof.Machine

/-- `n` blank cells (0x00, DEFAULT_ATTR) from offset `o` on (R81, R86). -/
def blankCells (attr : Byte) : Nat → Nat → List Host.Cell
  | _, 0 => []
  | o, n + 1 => (o, chNUL) :: (o + 1, attr) :: blankCells attr (o + 2) n

/-- The framebuffer after ScrollCore, in the form R81 gives under "Equivalently": FB'[o] = FB[o + ROW_BYTES] below the last row,
and the last row blank. The old row 0 is discarded. -/
def scrolledRows (attr : Byte) (m : List Host.Cell) : List Host.Cell :=
  (m.filter (fun c => decide (rowBytes ≤ c.1) && decide (c.1 < fbSize))).map (fun c => (c.1 - rowBytes, c.2))
    ++ blankCells attr lastRowOff cols

/-- ScrollCore (R81). -/
def State.scrollCore (s : State) : State :=
  { s with fb := scrolledRows s.cfg.defaultAttr s.fb }.setCur lastRowCell

/-! ### The loops of R81, byte by byte, in the copy order of R90

The step uses the closed form above; these are what a statement compares it with. -/

/-- `FB[dst] <- FB[src]`, copying a ⊥ mark as is. -/
def copyByte (m : List Host.Cell) (src dst : Nat) : List Host.Cell := Memory.copyTo m dst (Memory.read m src)

/-- The inner loop: row `r` is copied into row `r - 1`, k = 0..ROW_BYTES-1. -/
def copyRowUp (m : List Host.Cell) (r : Nat) : List Host.Cell :=
  (List.range rowBytes).foldl (fun m k => copyByte m (r * rowBytes + k) ((r - 1) * rowBytes + k)) m

/-- The outer loop, top to bottom: r = 1..ROWS-1, row 1 first (R90). -/
def copyRowsTopDown (m : List Host.Cell) : List Host.Cell :=
  (List.range (rows - 1)).foldl (fun m i => copyRowUp m (i + 1)) m

/-- The outer loop in the order R90 forbids: row ROWS-1 first. -/
def copyRowsBottomUp (m : List Host.Cell) : List Host.Cell :=
  (List.range (rows - 1)).foldl (fun m i => copyRowUp m (rows - 1 - i)) m

/-- The last loop: the last row is blanked, c = 0..COLS-1. -/
def blankLastRow (attr : Byte) (m : List Host.Cell) : List Host.Cell :=
  (List.range cols).foldl (fun m c => Memory.write (Memory.write m (lastRowOff + 2 * c) chNUL) (lastRowOff + 2 * c + 1) attr) m

/-- ScrollCore's framebuffer as R81's loops give it. -/
def scrolledByLoops (attr : Byte) (m : List Host.Cell) : List Host.Cell := blankLastRow attr (copyRowsTopDown m)

/-- The framebuffer that the order R90 forbids would give. -/
def scrolledBottomUp (attr : Byte) (m : List Host.Cell) : List Host.Cell := blankLastRow attr (copyRowsBottomUp m)

/-! ### PUTC -/

/-- PUTC, newline case (R83). -/
def State.putNewline (s : State) (o : Nat) : State :=
  if lastRowOff ≤ o then s.scrollCore else s.setCur ((rowOf o + 1) * cols)

/-- A glyph written at offset `o` of the surface, and the cursor one cell on (R84). -/
def State.writeGlyph (s : State) (o : Nat) (sym attr : Byte) : State := (s.setCellAt o sym attr).setCur (cellOf o + 1)

/-- PUTC, glyph case (R84): on a full surface the screen scrolls first. -/
def State.putGlyph (s : State) (o : Nat) (sym attr : Byte) : State :=
  if fbSize ≤ o then s.scrollCore.writeGlyph lastRowOff sym attr else s.writeGlyph o sym attr

/-- PUTC, backspace case (R85): with the target off the surface the fault is recorded and nothing else changes. -/
def State.putBackspace (s : State) (o : Nat) (attr : Byte) : State :=
  if o < cellBytes then s
  else if fbSize ≤ o - cellBytes then s.recordFault (.surfaceRange (o - cellBytes))
  else (s.setCur (cellOf (o - cellBytes))).setCellAt (o - cellBytes) chSP attr

/-- PUTC (R82): with a cursor half ⊥ the fault is recorded and nothing else changes (60_exceptions.md R153, 95_test_vectors.md PG8);
otherwise the newline, backspace or glyph case. -/
def execPutc (attr sym : Byte) (s : State) : Host.Outcome State Fault Refusal :=
  match s.cur with
  | none => .next (s.recordFault .uninitCursor)
  | some c =>
    if sym = chNL then .next (s.putNewline (cellBytes * c))
    else if sym = chBS then .next (s.putBackspace (cellBytes * c) attr)
    else .next (s.putGlyph (cellBytes * c) sym attr)

/-! ### CLEAR and SCROLL -/

/-- CLEAR (R86): every cell blank, the cursor at cell 0. It reads no state. -/
def execClear (s : State) : Host.Outcome State Fault Refusal :=
  .next ({ s with fb := blankCells s.cfg.defaultAttr 0 numCells }.setCur 0)

/-- SCROLL (R87). -/
def execScroll (s : State) : Host.Outcome State Fault Refusal := .next s.scrollCore

end Sys2Proof.Machine
end

