-- ==== Sys2Proof/Machine/Keyboard.lean ====
section
/-!
DEFINITION. The keyboard unit (41_keyboard.md): the translator (R110 to R117), TRANSLATE (R118) and the keyboard environment's
delivery (R109).
-/

namespace Sys2Proof.Machine

/-- A table's entry for a code of [PRINT_LO, PRINT_HI] (00_scope.md R8, 10_state.md R26). -/
def tableEntry (t : List (Option Byte)) (code : Byte) : Option Byte := (t[code.toNat - printLo.toNat]?).join

/-- Whether a base code names a shift key (R111). -/
def isShiftCode (c : Config) (base : Byte) : Bool := base == shiftCodeA || base == c.shiftCodeB

/-- `Translate(s, SHIFT)` (R116): the new SHIFT and the character, or `none` for NONE. The first case that applies decides. -/
def translateCode (c : Config) (code : Byte) (shift : Bool) : Bool × Option Byte :=
  if isShiftCode c (baseCode code) then (shiftAfterShiftKey code, none)
  else if isRelease code then (shift, none)
  else if code = c.spaceCode then (shift, some chSP)
  else if printLo ≤ code ∧ code ≤ printHi then
    (shift, if shift then tableEntry c.shifted code else tableEntry c.unshifted code)
  else (shift, none)

/-- TRANSLATE (R118): SHIFT and RES. -/
def execTranslate (code : Byte) (s : State) : Host.Outcome State Fault Refusal :=
  .next { s with
    shift := (translateCode s.cfg code s.shift).1
    res := resultWord (translateCode s.cfg code s.shift).2 }

/-- `Deliver(s)` (R109): the code is held if none is pending, and lost otherwise. -/
def State.deliver (s : State) (code : Byte) : State :=
  if s.kbdObf then s else { s with kbdBuf := code, kbdObf := true }

end Sys2Proof.Machine
end

