-- ==== Sys2Proof/Machine/Dispatch.lean ====
section
/-!
DEFINITION. One arm for each command of the opcode map (30_encoding.md R70, R71).
-/

namespace Sys2Proof.Machine

def exec (i : Instr) (s : State) : Host.Outcome State Fault Refusal :=
  match i with
  -- 40_display.md R82
  | .putc attr sym => Sys2Proof.Machine.execPutc attr sym s
  -- 40_display.md R86
  | .clear => Sys2Proof.Machine.execClear s
  -- 40_display.md R87
  | .scroll => Sys2Proof.Machine.execScroll s
  -- 41_keyboard.md R118
  | .translate code => Sys2Proof.Machine.execTranslate code s

end Sys2Proof.Machine
end

