-- ==== Sys2Proof/Machine/Bus.lean ====
section
/-!
DEFINITION. The host's accesses: `PortRead` and `PortWrite` (30_encoding.md R61 to R66, 40_display.md R88, R89, 41_keyboard.md
R106, R107) and `MemRead` and `MemWrite` of the framebuffer window (20_memory.md R42 to R45). A read answers the state after it
and the value it returns; a read that faults returns none and records the fault (60_exceptions.md R153). Each check comes before
the first write (R153), in the order of R154.
-/

namespace Sys2Proof.Machine

/-- A CMD write (30_encoding.md R64): the command word `op : ARG` is decoded and its command performed whole. -/
def issueCommand (op : Byte) (s : State) : Host.Outcome State Fault Refusal :=
  match decode (commandWord op s.arg) with
  | .ok i => exec i s
  | .error _ => .refused .reservedOpcode

/-- A write of the cursor data port (40_display.md R89). -/
def writeCursorData (v : Byte) (s : State) : Host.Outcome State Fault Refusal :=
  match s.crtcIdx with
  | .bot => .next (s.recordFault .uninitIndex)
  | .val i =>
    if i = curHiIndex then .next { s with curHi := .val v }
    else if i = curLoIndex then .next { s with curLo := .val v }
    else .refused .unmodelledIndex

/-- What a host read answers: the value returned, if one is, and the state after it. -/
abbrev ReadOutcome := Host.Outcome (Option Nat × State) Fault Refusal

/-- A host read of a byte that may hold ⊥ (10_state.md R19): a ⊥ byte gives no value and records UNINIT_READ with its location. -/
def readMByte (x : MByte) (loc : Location) (s : State) : ReadOutcome :=
  match x with
  | .bot => .next (none, s.recordFault (.uninitRead loc))
  | .val b => .next (some b.toNat, s)

/-- A read of the cursor data port (40_display.md R89): under another index any 8-bit value. -/
def readCursorData (s : State) : ReadOutcome :=
  match s.crtcIdx with
  | .bot => .next (none, s.recordFault .uninitIndex)
  | .val i =>
    if i = curHiIndex then readMByte s.curHi .curHi s
    else if i = curLoIndex then readMByte s.curLo .curLo s
    else .next (some s.drawn.toNat, s.afterDraw)

/-- A read of the keyboard status port (41_keyboard.md R106). -/
def readKbdStatus (s : State) : ReadOutcome := .next (some (statusByte s.drawn s.kbdObf).toNat, s.afterDraw)

/-- A read of the keyboard data port (41_keyboard.md R107): a pending code is consumed; with none pending any 8-bit value. -/
def readKbdData (s : State) : ReadOutcome :=
  if s.kbdObf then .next (some s.kbdBuf.toNat, { s with kbdObf := false })
  else .next (some s.drawn.toNat, s.afterDraw)

/-- `PortWrite(p, n, v)` (30_encoding.md R60, R61). -/
def writePort (p : Port) (w : Width) (v : Nat) (s : State) : Host.Outcome State Fault Refusal :=
  match portRefusal p .write w with
  | some r => .refused r
  | none =>
    match p with
    | .crtcIndex => .next { s with crtcIdx := .val (exactByte v) }
    | .crtcData => writeCursorData (exactByte v) s
    | .cmd => issueCommand (exactByte v) s
    | .arg => .next { s with arg := exactWord v }
    | .kbdStatus => .refused .readOnly
    | .kbdData => .refused .readOnly
    | .res => .refused .readOnly
    | .ctrl1 => .refused .noRegister
    | .ctrl3 => .refused .noRegister
    | .ctrl5 => .refused .noRegister

/-- `PortRead(p, n)` (30_encoding.md R60, R61). -/
def readPort (p : Port) (w : Width) (s : State) : ReadOutcome :=
  match portRefusal p .read w with
  | some r => .refused r
  | none =>
    match p with
    | .crtcIndex => readMByte s.crtcIdx .crtcIdx s
    | .crtcData => readCursorData s
    | .kbdStatus => readKbdStatus s
    | .kbdData => readKbdData s
    | .arg => .next (some s.arg.toNat, s)
    | .res => .next (some s.res.toNat, s)
    | .cmd => .refused .writeOnly
    | .ctrl1 => .refused .noRegister
    | .ctrl3 => .refused .noRegister
    | .ctrl5 => .refused .noRegister

/-- A host read of the word at the offset `o` (20_memory.md R43): the byte of the lower offset is in bits 7:0 (R45), and with either
byte ⊥ no value is returned (which of two ⊥ bytes the record names is log entry 16). -/
def readFbWord (o : Nat) (s : State) : ReadOutcome :=
  match s.fbByte o, s.fbByte (o + 1) with
  | .val lo, .val hi => .next (some (hiLo hi lo).toNat, s)
  | .val _, .bot => .next (none, s.recordFault (.uninitRead (.fb (o + 1))))
  | .bot, _ => .next (none, s.recordFault (.uninitRead (.fb o)))

/-- `MemRead(a, n)` (20_memory.md R42, R43). -/
def readMem (a : Nat) (w : Width) (s : State) : ReadOutcome :=
  andThen (windowOffset s a w.bytes) fun o =>
    match w with
    | .byte => readMByte (s.fbByte o) (.fb o) s
    | .word => readFbWord o s

/-- `MemWrite(a, n, v)` (20_memory.md R42, R44): only the bytes it names change. -/
def writeMem (a : Nat) (w : Width) (v : Nat) (s : State) : Host.Outcome State Fault Refusal :=
  andThen (windowOffset s a w.bytes) fun o =>
    match w with
    | .byte => .next (s.setFbByte o (byteOf v))
    | .word => .next ((s.setFbByte o (byteOf v)).setFbByte (o + 1) (upperByteOf v))

end Sys2Proof.Machine
end

