-- ==== Sys2Proof/Machine/HostAgent.lean ====
section
/-!
DEFINITION. The host agent (00_scope.md R12): what one statement does (30_encoding.md R75, R76), and whose turn a step is
(20_memory.md R50, 41_keyboard.md R109).
-/

namespace Sys2Proof.Machine

/-- One host statement (30_encoding.md R75, R76; 45_host_routines.md R136, R138); an access that faults records the fault (60_exceptions.md
R153). -/
def runStmt (st : Stmt) (s : State) : Host.Outcome State Fault Refusal :=
  match st with
  | .out w p v =>
    andThen (p.resolve s) fun port => andThen (writePort port w (v.eval s) s) fun t => .next t.afterAccess
  | .inp w p dst =>
    andThen (p.resolve s) fun port => andThen (readPort port w s) fun r => .next (r.2.receive dst r.1)
  | .st w m v => andThen (writeMem (m.address s) w (v.eval s) s) fun t => .next t.advance
  | .ld w m dst => andThen (readMem (m.address s) w s) fun r => .next (r.2.receive dst r.1)
  | .assign dst e => .next (s.setTemp dst (e.eval s)).advance
  | .jump target => .next { s with pc := target }
  | .jumpIf c target => if c.holds s then .next { s with pc := target } else .next s.advance
  | .ret e => .next { s with pc := s.program.length, returned := e.map (Expr.eval s) }
  | .bufStore i v => .next { s with buf := Sparse.put (i.eval s) (exactByte (v.eval s)) s.buf }.advance
  | .needCapacity cap => if cap.eval s = 0 then .refused .zeroCapacity else .next s.advance

/-- The host's turn: its next statement. A quiescent state takes no further host step (60_exceptions.md R153), and after its last
statement the host issues no access (30_encoding.md R76): nothing changes then (log entry 7). -/
def hostTurn (s : State) : Host.Outcome State Fault Refusal :=
  if s.quiescent then .next s
  else match s.program[s.pc]? with
    | none => .next s
    | some st => runStmt st s

/-- The state with its next turn taken. -/
def State.takeTurn (s : State) : State := { s with schedule := s.schedule.tail, turns := s.turns + 1 }

/-- The move of the environment at the n-th turn as a turn: a delivery, or the host's (41_keyboard.md R109; log entry 5). -/
def freeTurn (n : Nat) : Turn :=
  match Config.arrival n with
  | some code => .key code
  | none => .host

/-- Whose turn it is: the schedule's first entry, and where none is left a free choice, so that a run of any length may have any
number of deliveries at any time, or none (R109; log entry 5). -/
def State.turn (s : State) : Turn := s.schedule.head?.getD (freeTurn s.turns)

/-- One step of the one total order of events (20_memory.md R50): a delivery or a host statement, never one inside the other. -/
def stepTurn (s : State) : Host.Outcome State Fault Refusal :=
  match s.turn with
  | .host => hostTurn s.takeTurn
  | .key code => .next (s.takeTurn.deliver code)

/-- A step with its refusal recorded (60_exceptions.md R153): the run as the spec's bookkeeping sees it. -/
def settledStep (s : State) : State := s.takeTurn.settle (stepTurn s)

/-- The statement with which a host issues a command whose operands stand in ARG (30_encoding.md R77): `outb CMD, op`. -/
def cmdWrite (op : Byte) : Stmt := .out .byte (.named .cmd) (.lit op.toNat)

/-- The state in which the host's next statement is a CMD write of the command word's opcode, with its operands in ARG: the
host is at its first statement, it is its turn, and nothing stops it (log entry 6). -/
def State.withCommandWord (s : State) (w : CommandWord) : State :=
  { s with
    arg := w.extractLsb' 0 16
    program := [cmdWrite (opcodeField w)]
    pc := 0
    schedule := [.host]
    faults := []
    refused := false }

end Sys2Proof.Machine
end

