-- ==== Sys2Proof/Machine/Step.lean ====
section
/-!
DEFINITION. The machine's step, and the placing of one command where the step takes its next one.
-/

namespace Sys2Proof.Machine

/-- One step (20_memory.md R50): a keyboard delivery or one host statement. -/
def step (s : State) : Host.Outcome State Fault Refusal := stepTurn s

/-- `s` with the command whose table bits are `w` (24 bits, R67) placed where `step` takes its next command: the block fetches
no instruction (20_memory.md R53), so the host's next statement is the CMD write that issues it (log entry 6). -/
def State.withFetchWord (s : State) (nbits w : Nat) : State := s.withCommandWord (BitVec.ofNat 24 (w % 2 ^ nbits))

end Sys2Proof.Machine
end

