-- ==== Sys2Proof/Machine/HostRoutines.lean ====
section
/-!
DEFINITION. The command pseudo-instructions (30_encoding.md R77) and the host routines of 45_host_routines.md (R131 to R138) as
expansions into host statements. They are host software, not the block (R130): no definition of the step uses them. `base` is the
number of the expansion's first statement; temporaries a routine uses for itself are arguments (log entry 18).
-/

namespace Sys2Proof.Machine

/-- `x op y` for expressions. -/
def Expr.times (a b : Expr) : Expr := .bin .mul a b
/-- `a + b`. -/
def Expr.plus (a b : Expr) : Expr := .bin .add a b

/-- `putc S, A` (R77): `outw ARG, A*256 + S ; outb CMD, 0x01`. -/
def putcStmts (sym attr : Expr) : List Stmt :=
  [.out .word (.named .arg) ((attr.times (.lit 256)).plus sym), cmdWrite 0x01]

/-- `clear` (R77). -/
def clearStmts : List Stmt := [cmdWrite 0x02]

/-- `scroll` (R77). -/
def scrollStmts : List Stmt := [cmdWrite 0x03]

/-- `translate K` (R77): `outw ARG, K ; outb CMD, 0x04`. -/
def translateStmts (code : Expr) : List Stmt := [.out .word (.named .arg) code, cmdWrite 0x04]

/-- `translate_reuse` (R77): ARG already holds the code. -/
def translateReuseStmts : List Stmt := [cmdWrite 0x04]

/-- `set_cursor o` (45_host_routines.md R132); `t` is its temporary t0. -/
def setCursorStmts (o : Expr) (t : Nat) : List Stmt :=
  [.assign t (.bin .div o (.lit 2)),
    .out .byte (.named .crtcIndex) (.lit 14),
    .out .byte (.named .crtcData) (.bin .and (.bin .shr (.temp t) (.lit 8)) (.lit 0xFF)),
    .out .byte (.named .crtcIndex) (.lit 15),
    .out .byte (.named .crtcData) (.bin .and (.temp t) (.lit 0xFF))]

/-- `get_cursor -> t dst` (R133); `a` and `b` are its temporaries t0 and t1. -/
def getCursorStmts (dst a b : Nat) : List Stmt :=
  [.out .byte (.named .crtcIndex) (.lit 14),
    .inp .byte (.named .crtcData) a,
    .out .byte (.named .crtcIndex) (.lit 15),
    .inp .byte (.named .crtcData) b,
    .assign dst (((Expr.temp a).times (.lit 256)).plus (.temp b) |>.times (.lit 2))]

/-- `read_character -> t dst` (R135); `a` is its temporaries t0, t1 and t2, which are never live together. -/
def readCharacterStmts (base dst a : Nat) : List Stmt :=
  [.inp .byte (.named .kbdStatus) a,
    .jumpIf ⟨.eq, .bin .and (.temp a) (.lit 1), .lit 0⟩ base,
    .inp .byte (.named .kbdData) a,
    .out .word (.named .arg) (.temp a),
    cmdWrite 0x04,
    .inp .word (.named .res) a,
    .jumpIf ⟨.eq, .bin .and (.temp a) (.lit 0x100), .lit 0⟩ base,
    .assign dst (.bin .and (.temp a) (.lit 0xFF))]

/-- `read_line buf, cap` (R136 to R138) with the echo attributes of the configuration (R137), on the line buffer that lies at the
address `buf` of the host's memory; `i` is the write index, `c` the character and `a` the temporary of read_character. The check of
R138 comes first. The routine's return goes on at the statement after the expansion (30_encoding.md R77; log entry 18).

DESIGN CHOICE (log entry 18): the spec gives no form for the operands `buf` and `cap`. Each may be a constant or a run-time value: any
host expression over temporaries other than `i`, `c` and `a`, evaluated wherever the routine names it. -/
def readLineStmts (cfg : Config) (base : Nat) (buf cap : Expr) (i c a : Nat) : List Stmt :=
  let loop := base + 2
  let test := loop + 8
  let backspace := test + 5
  let store := backspace + 6
  let finish := store + 6
  let slot := buf.plus (.temp i)
  [.needCapacity cap, .assign i (.lit 0)]
    ++ readCharacterStmts loop c a
    ++ [.jumpIf ⟨.ne, .temp c, .lit chNL.toNat⟩ backspace,
      .bufStore slot (.lit chNUL.toNat)]
    ++ putcStmts (.lit chNL.toNat) (.lit cfg.nlEchoAttr.toNat)
    ++ [.jump finish,
      .jumpIf ⟨.ne, .temp c, .lit chBS.toNat⟩ store,
      .jumpIf ⟨.eq, .temp i, .lit 0⟩ loop,
      .assign i (.bin .sub (.temp i) (.lit 1))]
    ++ putcStmts (.lit chBS.toNat) (.lit cfg.echoAttr.toNat)
    ++ [.jump loop,
      .jumpIf ⟨.ge, .temp i, .bin .sub cap (.lit 1)⟩ loop,
      .bufStore slot (.temp c),
      .assign i ((Expr.temp i).plus (.lit 1))]
    ++ putcStmts (.temp c) (.lit cfg.echoAttr.toNat)
    ++ [.jump loop]

end Sys2Proof.Machine
end

