-- ==== Sys2Proof/Safety.lean ====
section
/-!
DEFINITION. What claims are stated in: a good ending (60_exceptions.md R156), the machine's invariant, the cursor on the
surface (40_display.md R92), and sequences of commands.
-/

namespace Sys2Proof.Machine

/-- FAULTS empty and REFUSED = 0 (60_exceptions.md R156). -/
def State.clean (s : State) : Bool := !s.quiescent

/-- A good ending (R156): the host program has ended with FAULTS empty and REFUSED = 0. -/
def State.goodEnding (s : State) : Bool := s.ended && s.clean

/-- The cursor is defined and 0 <= OFF <= FB_SIZE (40_display.md R92). -/
def State.cursorOnSurface (s : State) : Prop := ∃ c, s.cur = some c ∧ 2 * c ≤ fbSize

/-- RES has only the forms rule R28 of 10_state.md gives it: RES[15:9] = 0, and CHAR = 0x00 when HAS = 0. -/
def State.resLegal (s : State) : Prop := s.res.toNat < 512 ∧ (resHas s.res = false → resChar s.res = 0)

/-- The invariant of the machine: the framebuffer, the temporaries and the line buffer are in canonical form, and RES is legal. -/
structure State.Inv (s : State) : Prop where
  /-- Offsets strictly rising and below FB_SIZE. -/
  fbWf : Memory.wf s.fb = true
  /-- Temporaries listed in rising order. -/
  tempsRising : Sparse.rising 0 s.temps = true
  /-- No listed temporary holds 0. -/
  tempsNonzero : ∀ e ∈ s.temps, e.2 ≠ 0
  /-- Buffer indices strictly rising. -/
  bufRising : Sparse.rising 0 s.buf = true
  /-- RES has a form of 10_state.md R28. -/
  resForm : s.resLegal

/-- `t` differs from `s` in FB and the cursor at most: what a command of the display unit may write (40_display.md R82, R86,
R87). Every other register, the host and the turns are unchanged. -/
def onlyDisplayChanged (s t : State) : Prop := t = { s with fb := t.fb, curHi := t.curHi, curLo := t.curLo }

/-- `t` differs from `s` in SHIFT and RES at most: what TRANSLATE may write (41_keyboard.md R118). -/
def onlyTranslatorChanged (s t : State) : Prop := t = { s with shift := t.shift, res := t.res }

/-- The next step of `s` is the host's, and its statement is a CMD write that issues the command `i` (30_encoding.md R64). -/
def State.issues (s : State) (i : Instr) : Prop :=
  s.turn = .host ∧ s.quiescent = false ∧
    ∃ p v, s.program[s.pc]? = some (.out .byte p v) ∧ p.resolve s = .next .cmd ∧
      decode (commandWord (exactByte (v.eval s)) s.arg) = .ok i

/-- The next step of `s` is the host's, and its statement is `st`. -/
def State.executes (s : State) (st : Stmt) : Prop :=
  s.turn = .host ∧ s.quiescent = false ∧ s.program[s.pc]? = some st

/-- The next step of `s` is a host byte read of the port `q`. -/
def State.readsPort (s : State) (q : Port) : Prop := ∃ p d, s.executes (.inp .byte p d) ∧ p.resolve s = .next q

/-- The next step of `s` is a host byte write of the port `q`. -/
def State.writesPort (s : State) (q : Port) : Prop := ∃ p v, s.executes (.out .byte p v) ∧ p.resolve s = .next q

/-- The next step of `s` is a host read of the window whose byte FB[o] is the one a fault names: a byte read at `o`, a word read at an
even `o`, or a word read whose upper byte is FB[o] and whose lower byte holds a value (20_memory.md R43; log entry 16). -/
def State.readsFb (s : State) (o : Nat) : Prop :=
  o < fbSize ∧ ∃ w m d, s.executes (.ld w m d) ∧
    ((m.address s = s.cfg.fbBase + o ∧ (w = .word → o % 2 = 0)) ∨
      (m.address s + 1 = s.cfg.fbBase + o ∧ w = .word ∧ o % 2 = 1 ∧ s.fbByte (o - 1) ≠ .bot))

/-- The next step of `s` raises a fault of the given kind: the column "raised by" of the table in 60_exceptions.md R151. -/
def State.raises (s : State) : FaultKind → Prop
  | .uninitCursor => s.cur = none ∧ ∃ attr sym, s.issues (.putc attr sym)
  | .uninitRead (.fb o) => s.fbByte o = .bot ∧ s.readsFb o
  | .uninitRead .curHi => s.curHi = .bot ∧ s.crtcIdx = .val curHiIndex ∧ s.readsPort .crtcData
  | .uninitRead .curLo => s.curLo = .bot ∧ s.crtcIdx = .val curLoIndex ∧ s.readsPort .crtcData
  | .uninitRead .crtcIdx => s.crtcIdx = .bot ∧ s.readsPort .crtcIndex
  | .uninitIndex => s.crtcIdx = .bot ∧ (s.readsPort .crtcData ∨ s.writesPort .crtcData)
  | .surfaceRange p => ∃ c attr, s.cur = some c ∧ 2 * c = p + 2 ∧ fbSize ≤ p ∧ s.issues (.putc attr chBS)

/-- What a faulting read of the port `p` found: the column "raised by" of 60_exceptions.md R151 for port reads. -/
def portReadFaults (s : State) (p : Port) (k : FaultKind) : Prop :=
  (p = .crtcIndex ∧ s.crtcIdx = .bot ∧ k = .uninitRead .crtcIdx) ∨
  (p = .crtcData ∧ s.crtcIdx = .bot ∧ k = .uninitIndex) ∨
  (p = .crtcData ∧ s.crtcIdx = .val curHiIndex ∧ s.curHi = .bot ∧ k = .uninitRead .curHi) ∨
  (p = .crtcData ∧ s.crtcIdx = .val curLoIndex ∧ s.curLo = .bot ∧ k = .uninitRead .curLo)

/-- Several commands performed one after the other. (A host whose command records a fault issues no further one, 60_exceptions.md R153;
this is the block's side alone, on which a faulted command leaves only its record.) -/
def execAll : List Instr → State → Host.Outcome State Fault Refusal
  | [], s => .next s
  | i :: is, s => andThen (exec i s) (execAll is)

/-- PUTC of each attribute and glyph of a list, in order. -/
def putcAll (gs : List (Byte × Byte)) : List Instr := gs.map (fun g => .putc g.1 g.2)

/-- A symbol that PUTC draws as a glyph: every byte but NL and BS (40_display.md R82). -/
def isGlyph (sym : Byte) : Bool := sym != chNL && sym != chBS

/-- The commands of the display unit. -/
def isDisplayCommand : Instr → Bool
  | .putc _ _ => true
  | .clear => true
  | .scroll => true
  | .translate _ => false

end Sys2Proof.Machine
end

