-- ==== Sys2Proof/Certificates/Slice0/Obligations.lean ====
section
/-!
DEFINITION. The statements about the model, each from the spec's numbered rules. OBLIGATIONS.json lists them with their rules.
-/

open Sys2Proof Sys2Proof.Machine

/-! ### The command word -/

/-- 30_encoding.md R64, R67, R68, R71: no operand bit is dropped. -/
def Obligations.DecodeOfEncodeIsTheCommand : Prop := ∀ i : Instr, i.wellFormed = true → decode (encode i) = .ok i

/-- 30_encoding.md R67 to R71: a word that decodes is the canonical word of its command, but for its don't-care bits. That the
canonical word has 0 in them is the model's choice (log entry 17). -/
def Obligations.DecodedWordAgreesWithEncoding : Prop :=
  ∀ (w : CommandWord) (i : Instr), decode w = .ok i → w &&& significantBits i = encode i

/-- 30_encoding.md R69: don't-care bits do not affect the command, and no value in them is refused. -/
def Obligations.DontCareBitsDoNotAffectTheCommand : Prop :=
  (∀ x : Word, decode (commandWord 0x02 x) = .ok .clear) ∧
  (∀ x : Word, decode (commandWord 0x03 x) = .ok .scroll) ∧
  (∀ x k : Byte, decode (commandWord 0x04 (hiLo x k)) = .ok (.translate k))

/-- 30_encoding.md R72 (with the CMD write of R64): exactly the opcodes 0x00 and 0x05..0xFF are reserved, and a CMD write of one
is refused, whatever ARG holds. -/
def Obligations.ReservedOpcodesAreRefused : Prop :=
  (∀ w : CommandWord, (∃ i, decode w = .ok i) ↔ 1 ≤ (opcodeField w).toNat ∧ (opcodeField w).toNat ≤ 4) ∧
  (∀ (s : State) (op : Nat), op < 256 → op = 0 ∨ 5 ≤ op → writePort .cmd .byte op s = .refused .reservedOpcode)

/-- Words written out from 30_encoding.md R67 and R78: a glyph, a newline, CLEAR, SCROLL, and the release of the key 0x1E. -/
def Obligations.ExampleWordsDecode : Prop :=
  decode 0x011F48 = .ok (.putc 0x1F 0x48) ∧ decode 0x01070A = .ok (.putc 0x07 0x0A) ∧ decode 0x02BEEF = .ok .clear ∧
  decode 0x030000 = .ok .scroll ∧ decode 0x04009E = .ok (.translate 0x9E)

/-- 30_encoding.md R70: which command a CMD write issues and which field of ARG each operand is. -/
def Obligations.CommandsTakeTheirOperandsFromArg : Prop :=
  ∀ (s : State) (h l : Byte), s.arg = hiLo h l →
    writePort .cmd .byte 0x01 s = exec (.putc h l) s ∧ writePort .cmd .byte 0x02 s = exec .clear s ∧
    writePort .cmd .byte 0x03 s = exec .scroll s ∧ writePort .cmd .byte 0x04 s = exec (.translate l) s

/-! ### CLEAR and SCROLL -/

/-- 40_display.md R86: every cell blank, the cursor at cell 0, nothing else written; from every state. -/
def Obligations.ClearBlanksEveryCell : Prop :=
  ∀ s : State, ∃ t, exec .clear s = .next t ∧
    (∀ i, i < 2000 → t.fbByte (2 * i) = .val 0x00 ∧ t.fbByte (2 * i + 1) = .val s.cfg.defaultAttr) ∧
    t.curHi = .val 0 ∧ t.curLo = .val 0 ∧ t.cur = some 0 ∧ onlyDisplayChanged s t

/-- 40_display.md R81, R87: rows move up one, ⊥ marks with them, the last row is blank, the cursor stands at cell 1920, nothing
else is written; from every state, the cursor defined or not. -/
def Obligations.ScrollMovesEveryRowUp : Prop :=
  ∀ s : State, ∃ t, exec .scroll s = .next t ∧
    (∀ o, o < 3840 → t.fbByte o = s.fbByte (o + 160)) ∧
    (∀ c, c < 80 → t.fbByte (3840 + 2 * c) = .val 0x00 ∧ t.fbByte (3840 + 2 * c + 1) = .val s.cfg.defaultAttr) ∧
    t.cur = some 1920 ∧ onlyDisplayChanged s t

/-- 40_display.md R81, R90: SCROLL's framebuffer is the one the byte-by-byte loops give, row 1 copied before row 2 and so on. -/
def Obligations.ScrollIsTheTopToBottomCopy : Prop :=
  ∀ s : State, Memory.wf s.fb = true →
    ∃ t, exec .scroll s = .next t ∧ t.fb = scrolledByLoops s.cfg.defaultAttr s.fb

/-- 40_display.md R90: copying the bottom row first leaves the old last row in every row above the last, so from every state in which
a row from row 1 to row 23 differs from the last row SCROLL gives a different framebuffer. -/
def Obligations.ScrollIsNotTheBottomToTopCopy : Prop :=
  ∀ s : State, Memory.wf s.fb = true → (∃ o, 160 ≤ o ∧ o < 3840 ∧ s.fbByte o ≠ s.fbByte (3840 + o % 160)) →
    ∃ t, exec .scroll s = .next t ∧ t.fb ≠ scrolledBottomUp s.cfg.defaultAttr s.fb

/-! ### PUTC -/

/-- 40_display.md R84: below FB_SIZE a glyph is written at the cursor and the cursor advances one cell; on a full surface (and
off it) the screen scrolls first and the glyph lands at LAST_ROW_OFF. -/
def Obligations.PutcGlyphWritesAndAdvances : Prop :=
  ∀ (s : State) (attr sym : Byte) (c : Nat), s.cur = some c → isGlyph sym = true →
    (c < 2000 → ∃ t, exec (.putc attr sym) s = .next t ∧
      t.fbByte (2 * c) = .val sym ∧ t.fbByte (2 * c + 1) = .val attr ∧
      (∀ o, o ≠ 2 * c → o ≠ 2 * c + 1 → t.fbByte o = s.fbByte o) ∧
      t.cur = some (c + 1) ∧ onlyDisplayChanged s t) ∧
    (2000 ≤ c → ∃ t, exec (.putc attr sym) s = .next t ∧
      (∀ o, o < 3840 → t.fbByte o = s.fbByte (o + 160)) ∧
      t.fbByte 3840 = .val sym ∧ t.fbByte 3841 = .val attr ∧
      (∀ k, 1 ≤ k → k < 80 → t.fbByte (3840 + 2 * k) = .val 0x00 ∧ t.fbByte (3840 + 2 * k + 1) = .val s.cfg.defaultAttr) ∧
      t.cur = some 1921 ∧ onlyDisplayChanged s t)

/-- 40_display.md R83: above the last row the cursor moves to column 0 of the next row and FB is unchanged; from the last row on
the screen scrolls. The attribute is not used. -/
def Obligations.PutcNewlineMovesOrScrolls : Prop :=
  ∀ (s : State) (attr : Byte) (c : Nat), s.cur = some c →
    (c < 1920 → ∃ t, exec (.putc attr 0x0A) s = .next t ∧
      (∀ o, t.fbByte o = s.fbByte o) ∧ t.cur = some ((c / 80 + 1) * 80) ∧ onlyDisplayChanged s t) ∧
    (1920 ≤ c → ∃ t, exec (.putc attr 0x0A) s = .next t ∧
      (∀ o, o < 3840 → t.fbByte o = s.fbByte (o + 160)) ∧
      (∀ k, k < 80 → t.fbByte (3840 + 2 * k) = .val 0x00 ∧ t.fbByte (3840 + 2 * k + 1) = .val s.cfg.defaultAttr) ∧
      t.cur = some 1920 ∧ onlyDisplayChanged s t)

/-- 40_display.md R85: no-op at the start; otherwise the cell before the cursor becomes a space in the given colour and the cursor
stands on it; with the target off the surface SURFACE_RANGE is recorded and nothing else is changed. -/
def Obligations.PutcBackspaceErasesOrFaults : Prop :=
  ∀ (s : State) (attr : Byte) (c : Nat), s.cur = some c →
    (c = 0 → exec (.putc attr 0x08) s = .next s) ∧
    (1 ≤ c → c ≤ 2000 → ∃ t, exec (.putc attr 0x08) s = .next t ∧
      t.fbByte (2 * c - 2) = .val 0x20 ∧ t.fbByte (2 * c - 1) = .val attr ∧
      (∀ o, o ≠ 2 * c - 2 → o ≠ 2 * c - 1 → t.fbByte o = s.fbByte o) ∧
      t.cur = some (c - 1) ∧ onlyDisplayChanged s t) ∧
    (2000 < c → exec (.putc attr 0x08) s = .next { s with faults := s.faults ++ [⟨.surfaceRange (2 * c - 2), s.pc⟩] })

/-- 40_display.md R82, 60_exceptions.md R151, R153: PUTC with either cursor half ⊥ records UNINIT_CURSOR and changes nothing else. -/
def Obligations.PutcWithUndefinedCursorFaults : Prop :=
  ∀ (s : State) (attr sym : Byte), s.curHi = .bot ∨ s.curLo = .bot →
    exec (.putc attr sym) s = .next { s with faults := s.faults ++ [⟨.uninitCursor, s.pc⟩] }

/-- 40_display.md R82 to R85: PUTC answers a next state in every state; exactly with the cursor defined, and a backspace's target on
the surface, it records no fault and writes FB and the cursor at most. -/
def Obligations.PutcCompletesExactlyWhen : Prop :=
  ∀ (s : State) (attr sym : Byte), ∃ t, exec (.putc attr sym) s = .next t ∧
    (t.faults = s.faults ↔ ∃ c, s.cur = some c ∧ (sym = 0x08 → c ≤ 2000)) ∧ (t.faults = s.faults → onlyDisplayChanged s t)

/-- 40_display.md R92: after a PUTC, CLEAR or SCROLL that raises no fault, 0 <= OFF <= FB_SIZE whatever CUR was, and no byte is written
at or above FB_SIZE. -/
def Obligations.DisplayCommandsKeepTheCursorOnTheSurface : Prop :=
  ∀ (s t : State) (i : Instr), isDisplayCommand i = true → exec i s = .next t → t.faults = s.faults →
    t.cursorOnSurface ∧ ∀ e ∈ t.fb, fbSize ≤ e.1 → e ∈ s.fb

/-- 95_test_vectors.md W3, 40_display.md R84: n glyphs from cell c on, with c + n <= 2000, fill the cells in order without a scroll
and leave the cursor at c + n; every other byte is unchanged. From the start of row r, 80 glyphs end at the start of row r + 1. -/
def Obligations.GlyphsFillCellsInOrder : Prop :=
  ∀ (gs : List (Byte × Byte)) (s : State) (c : Nat), s.cur = some c → c + gs.length ≤ 2000 →
    (∀ g ∈ gs, isGlyph g.2 = true) →
    ∃ t, execAll (putcAll gs) s = .next t ∧ t.cur = some (c + gs.length) ∧
      (∀ n g, gs[n]? = some g → t.fbByte (2 * (c + n)) = .val g.2 ∧ t.fbByte (2 * (c + n) + 1) = .val g.1) ∧
      (∀ o, o < 2 * c ∨ 2 * (c + gs.length) ≤ o → t.fbByte o = s.fbByte o) ∧ onlyDisplayChanged s t

/-- 95_test_vectors.md W5: a backspace right after a glyph leaves {space, the backspace's colour} in the glyph's cell and the cursor
on it. -/
def Obligations.BackspaceUndoesAGlyph : Prop :=
  ∀ (s : State) (a a' sym : Byte) (c : Nat), s.cur = some c → c < 2000 → isGlyph sym = true →
    ∃ t, execAll [.putc a sym, .putc a' 0x08] s = .next t ∧ t.fbByte (2 * c) = .val 0x20 ∧ t.fbByte (2 * c + 1) = .val a' ∧
      (∀ o, o ≠ 2 * c → o ≠ 2 * c + 1 → t.fbByte o = s.fbByte o) ∧ t.cur = some c ∧ onlyDisplayChanged s t

/-! ### TRANSLATE -/

/-- 41_keyboard.md R118: TRANSLATE runs the translator on K and SHIFT and writes SHIFT and RES, and nothing else; from every
state, on every K. -/
def Obligations.TranslateWritesShiftAndRes : Prop :=
  ∀ (s : State) (k : Byte), ∃ t, exec (.translate k) s = .next t ∧ onlyTranslatorChanged s t ∧
    t.shift = (translateCode s.cfg k s.shift).1 ∧ (isShiftCode s.cfg (baseCode k) = false → t.shift = s.shift) ∧
    ((translateCode s.cfg k s.shift).2 = none → t.res = 0x0000) ∧
    (∀ r : Byte, (translateCode s.cfg k s.shift).2 = some r → t.res.toNat = 256 + r.toNat)

/-- 41_keyboard.md R111, and R118 for RES: a shift key sets SHIFT at its press, clears it at its release, and gives NONE. -/
def Obligations.ShiftKeySetsOrClearsTheLatch : Prop :=
  ∀ (s : State) (k : Byte), k.toNat % 128 = 0x2A ∨ k.toNat % 128 = s.cfg.shiftCodeB.toNat →
    exec (.translate k) s = .next { s with shift := decide (k.toNat < 128), res := 0x0000 }

/-- 41_keyboard.md R112: every other release gives NONE and leaves SHIFT. -/
def Obligations.OtherReleasesGiveNone : Prop :=
  ∀ (s : State) (k : Byte), k.toNat % 128 ≠ 0x2A → k.toNat % 128 ≠ s.cfg.shiftCodeB.toNat → 128 ≤ k.toNat →
    exec (.translate k) s = .next { s with res := 0x0000 }

/-- 41_keyboard.md R113: the space bar gives the space in either shift state. A state's configuration is one that rule R8 of
00_scope.md admits. -/
def Obligations.SpaceBarGivesSpace : Prop :=
  ∀ s : State, exec (.translate s.cfg.spaceCode) s = .next { s with res := 0x0120 }

/-- 41_keyboard.md R114: a press in [0x02, 0x35] that is no shift key and not the space bar gives the entry of the table that
SHIFT selects, and a NONE entry gives NONE; SHIFT is unchanged. -/
def Obligations.PrintableCodesAreLookedUp : Prop :=
  ∀ (s : State) (k : Byte), 2 ≤ k.toNat → k.toNat ≤ 0x35 → k ≠ 0x2A → k ≠ s.cfg.shiftCodeB → k ≠ s.cfg.spaceCode →
    ∃ t, exec (.translate k) s = .next t ∧ t = { s with res := t.res } ∧
      ∀ e, (if s.shift then s.cfg.shifted[k.toNat - 2]? else s.cfg.unshifted[k.toNat - 2]?) = some e →
        (e = none → t.res = 0x0000) ∧ (∀ r : Byte, e = some r → t.res.toNat = 256 + r.toNat)

/-- 41_keyboard.md R115: every other press gives NONE and leaves SHIFT. -/
def Obligations.OtherPressesGiveNone : Prop :=
  ∀ (s : State) (k : Byte), k.toNat < 2 ∨ 0x35 < k.toNat → k.toNat < 128 → k ≠ 0x2A → k ≠ s.cfg.shiftCodeB →
    k ≠ s.cfg.spaceCode → exec (.translate k) s = .next { s with res := 0x0000 }

/-- 95_test_vectors.md W6 under every configuration in which neither open key code is 0x1E: 'a', 'A', and NONE for the
release. -/
def Obligations.KeyAGivesItsLetter : Prop :=
  ∀ s : State, s.cfg.shiftCodeB ≠ 0x1E → s.cfg.spaceCode ≠ 0x1E →
    exec (.translate 0x1E) s = .next { s with res := if s.shift then 0x0141 else 0x0161 } ∧
    exec (.translate 0x9E) s = .next { s with res := 0x0000 }

/-- 41_keyboard.md R119: one latch for both shift keys. After a press of one, a press of the other and a release of the other SHIFT
is 0; a release always leaves 0 and a press 1; no other code changes it. -/
def Obligations.ShiftLatchLaws : Prop :=
  (∀ (s : State) (a b : Byte), isShiftCode s.cfg a = true → isShiftCode s.cfg b = true → a.toNat < 128 → b.toNat < 128 →
    ∃ t, execAll [.translate a, .translate b, .translate (b ||| 0x80)] s = .next t ∧ t.shift = false) ∧
  (∀ (s t : State) (k : Byte), exec (.translate k) s = .next t → isShiftCode s.cfg (baseCode k) = true →
    t.shift = decide (k.toNat < 128)) ∧
  (∀ (s t : State) (k : Byte), exec (.translate k) s = .next t → isShiftCode s.cfg (baseCode k) = false → t.shift = s.shift)

/-- 41_keyboard.md R117, 10_state.md R28: a character that TRANSLATE reports is never 0x00. -/
def Obligations.TranslateNeverReportsNul : Prop :=
  ∀ (s t : State) (k : Byte), exec (.translate k) s = .next t → resHas t.res = true → resChar t.res ≠ 0

/-! ### Ports -/

/-- 30_encoding.md R60, R61, and the order of its checks (log entry 9): which accesses are refused, and under which name. -/
def Obligations.IllegalPortAccessesAreRefused : Prop :=
  ∀ (s : State) (v : Nat),
    (∀ p, p ∈ [Port.crtcIndex, .crtcData, .kbdStatus, .kbdData, .cmd] →
      readPort p .word s = .refused .badWidth ∧ writePort p .word v s = .refused .badWidth) ∧
    (∀ p, p ∈ [Port.arg, .res] → readPort p .byte s = .refused .badWidth ∧ writePort p .byte v s = .refused .badWidth) ∧
    writePort .kbdStatus .byte v s = .refused .readOnly ∧ writePort .kbdData .byte v s = .refused .readOnly ∧
    writePort .res .word v s = .refused .readOnly ∧ readPort .cmd .byte s = .refused .writeOnly ∧
    (∀ p, p ∈ [Port.ctrl1, .ctrl3, .ctrl5] → ∀ w, readPort p w s = .refused .noRegister ∧ writePort p w v s = .refused .noRegister)

/-- 30_encoding.md R60, 20_memory.md R40, R48: each decoded port address reaches its register. -/
def Obligations.PortAddressesReachTheirRegisters : Prop :=
  ∀ s : State,
    (PortRef.addr s.cfg.crtcIndexPort).resolve s = .next .crtcIndex ∧
    (PortRef.addr s.cfg.crtcDataPort).resolve s = .next .crtcData ∧
    (PortRef.addr s.cfg.kbdStatusPort).resolve s = .next .kbdStatus ∧
    (PortRef.addr s.cfg.kbdDataPort).resolve s = .next .kbdData ∧
    (PortRef.addr s.cfg.ctrlBase).resolve s = .next .cmd ∧
    (PortRef.addr (s.cfg.ctrlBase + 1)).resolve s = .next .ctrl1 ∧
    (PortRef.addr (s.cfg.ctrlBase + 2)).resolve s = .next .arg ∧
    (PortRef.addr (s.cfg.ctrlBase + 3)).resolve s = .next .ctrl3 ∧
    (PortRef.addr (s.cfg.ctrlBase + 4)).resolve s = .next .res ∧
    (PortRef.addr (s.cfg.ctrlBase + 5)).resolve s = .next .ctrl5

/-- 40_display.md R88: the index port stores any byte and reads it back; reading it while ⊥ records the fault; no command changes it, and a
step that does is a host write of this port. -/
def Obligations.IndexPortHoldsItsValue : Prop :=
  (∀ (s : State) (v : Byte), writePort .crtcIndex .byte v.toNat s = .next { s with crtcIdx := .val v } ∧
    readPort .crtcIndex .byte { s with crtcIdx := .val v } = .next (some v.toNat, { s with crtcIdx := .val v })) ∧
  (∀ s : State, s.crtcIdx = .bot →
    readPort .crtcIndex .byte s = .next (none, { s with faults := s.faults ++ [⟨.uninitRead .crtcIdx, s.pc⟩] })) ∧
  (∀ (s t : State) (i : Instr), exec i s = .next t → t.crtcIdx = s.crtcIdx) ∧
  (∀ s t : State, step s = .next t → t.crtcIdx ≠ s.crtcIdx →
    ∃ p v, s.executes (.out .byte p v) ∧ p.resolve s = .next .crtcIndex)

/-- 40_display.md R89. A write: index 14 reaches CUR_HI, 15 CUR_LO, another index is refused, ⊥ faults. A read: the selected half,
a half that is ⊥ faults, another index gives some 8-bit value (which one is free) and changes no state of the block; `draws`, the
count of free draws, is the model's own (log entry 3). -/
def Obligations.CursorDataPortReachesTheSelectedHalf : Prop :=
  ∀ (s : State) (v : Byte),
    (s.crtcIdx = .bot → writePort .crtcData .byte v.toNat s = .next (s.recordFault .uninitIndex)) ∧
    (s.crtcIdx = .val 14 → writePort .crtcData .byte v.toNat s = .next { s with curHi := .val v }) ∧
    (s.crtcIdx = .val 15 → writePort .crtcData .byte v.toNat s = .next { s with curLo := .val v }) ∧
    (∀ i : Byte, s.crtcIdx = .val i → i ≠ 14 → i ≠ 15 → writePort .crtcData .byte v.toNat s = .refused .unmodelledIndex) ∧
    (s.crtcIdx = .bot → readPort .crtcData .byte s = .next (none, s.recordFault .uninitIndex)) ∧
    (s.crtcIdx = .val 14 → s.curHi = .bot → readPort .crtcData .byte s = .next (none, s.recordFault (.uninitRead .curHi))) ∧
    (∀ b : Byte, s.crtcIdx = .val 14 → s.curHi = .val b → readPort .crtcData .byte s = .next (some b.toNat, s)) ∧
    (s.crtcIdx = .val 15 → s.curLo = .bot → readPort .crtcData .byte s = .next (none, s.recordFault (.uninitRead .curLo))) ∧
    (∀ b : Byte, s.crtcIdx = .val 15 → s.curLo = .val b → readPort .crtcData .byte s = .next (some b.toNat, s)) ∧
    (∀ i : Byte, s.crtcIdx = .val i → i ≠ 14 → i ≠ 15 →
      ∃ b : Byte, readPort .crtcData .byte s = .next (some b.toNat, { s with draws := s.draws + 1 }))

/-- 45_host_routines.md R132 to R134 and 70_reset_and_hazards.md R174, as bus accesses: between the two pairs CUR is the new high
byte with the old low byte; after both, CUR is the value written, reads back half by half, and CRTC_IDX is 15. -/
def Obligations.CursorRegistersRoundTrip : Prop :=
  ∀ (s : State) (v : Nat), v < 65536 →
    ∃ t1 t2 t3 t4 t5, writePort .crtcIndex .byte 14 s = .next t1 ∧ writePort .crtcData .byte (v / 256) t1 = .next t2 ∧
      (∀ l : Byte, s.curLo = .val l → t2.cur = some (v / 256 * 256 + l.toNat)) ∧
      writePort .crtcIndex .byte 15 t2 = .next t3 ∧ writePort .crtcData .byte (v % 256) t3 = .next t4 ∧
      t4.cur = some v ∧ t4 = { s with curHi := t4.curHi, curLo := t4.curLo, crtcIdx := .val 15 } ∧
      readPort .crtcData .byte t4 = .next (some (v % 256), t4) ∧ writePort .crtcIndex .byte 14 t4 = .next t5 ∧
      readPort .crtcData .byte t5 = .next (some (v / 256), t5)

/-- 41_keyboard.md R106: bit 0 of the status is KBD_OBF, bits 7:1 are those of the draw (free), no side effect on the block; a write
is refused. `draws` and `Config.freeByte` are the model's form of a draw (log entry 3). -/
def Obligations.KeyboardStatusShowsAvailability : Prop :=
  ∀ s : State, (∃ v : Nat, readPort .kbdStatus .byte s = .next (some v, { s with draws := s.draws + 1 }) ∧ v < 256 ∧
      v % 2 = (if s.kbdObf then 1 else 0) ∧ v / 2 = (Config.freeByte s.draws).toNat / 2) ∧
    ∀ v : Nat, writePort .kbdStatus .byte v s = .refused .readOnly

/-- 41_keyboard.md R107: a pending code is returned once and consumed; with none pending some 8-bit value is returned (which one
is free) and no state of the block changes; a write is refused. `draws` is the model's own (log entry 3). -/
def Obligations.KeyboardDataIsConsumedByItsRead : Prop :=
  ∀ s : State,
    (s.kbdObf = true → readPort .kbdData .byte s = .next (some s.kbdBuf.toNat, { s with kbdObf := false })) ∧
    (s.kbdObf = false → ∃ b : Byte, readPort .kbdData .byte s = .next (some b.toNat, { s with draws := s.draws + 1 })) ∧
    ∀ v : Nat, writePort .kbdData .byte v s = .refused .readOnly

/-- 41_keyboard.md R109: a delivery is a step of its own; it fills an empty holding register and is lost on a full one. How a
state says that a delivery comes next is the model's choice (log entry 5). -/
def Obligations.DeliveryFillsOrIsLost : Prop :=
  ∀ (s : State) (k : Byte), s.turn = .key k →
    (s.kbdObf = false → step s = .next { s.takeTurn with kbdBuf := k, kbdObf := true }) ∧
    (s.kbdObf = true → step s = .next s.takeTurn) ∧ s.takeTurn = { s with schedule := s.takeTurn.schedule, turns := s.turns + 1 }

/-- 30_encoding.md R65: ARG is what was last written to its port, whatever commands came between; a step that changes it is a host
write of that port. -/
def Obligations.ArgKeepsItsValue : Prop :=
  (∀ (s : State) (v : Nat), v < 65536 →
    writePort .arg .word v s = .next { s with arg := BitVec.ofNat 16 v } ∧
    readPort .arg .word { s with arg := BitVec.ofNat 16 v } = .next (some v, { s with arg := BitVec.ofNat 16 v })) ∧
  (∀ (s t : State) (is : List Instr), execAll is s = .next t → t.arg = s.arg) ∧
  (∀ s t : State, step s = .next t → t.arg ≠ s.arg → ∃ p v, s.executes (.out .word p v) ∧ p.resolve s = .next .arg)

/-- 30_encoding.md R66, 10_state.md R28: RES reads back without side effect, and PUTC, CLEAR and SCROLL leave it. -/
def Obligations.ResIsReadWithoutSideEffect : Prop :=
  (∀ s : State, readPort .res .word s = .next (some s.res.toNat, s)) ∧
  (∀ (s t : State) (i : Instr), isDisplayCommand i = true → exec i s = .next t → t.res = s.res)

/-- 20_memory.md R47: KBD_DATA_PORT is the only port whose read changes state of the block; a read that returns no value changes
nothing but FAULTS (60_exceptions.md R153). -/
def Obligations.OnlyKeyboardDataReadHasASideEffect : Prop :=
  ∀ (s t : State) (p : Port) (w : Width),
    (∀ v : Nat, readPort p w s = .next (some v, t) →
      (p ≠ .kbdData → t = { s with draws := t.draws }) ∧ t = { s with draws := t.draws, kbdObf := t.kbdObf }) ∧
    (readPort p w s = .next (none, t) → p ≠ .kbdData ∧ t = { s with faults := t.faults } ∧ t.faults ≠ s.faults)

/-! ### The framebuffer window -/

/-- 20_memory.md R43: window reads, of one byte and of two (the attribute in bits 15:8), the faults of ⊥ bytes and the refusal of an odd
word. They change nothing of the block. -/
def Obligations.WindowReads : Prop :=
  ∀ (s : State) (o : Nat), o < 4000 →
    (s.fbByte o = .bot → readMem (s.cfg.fbBase + o) .byte s = .next (none, s.recordFault (.uninitRead (.fb o)))) ∧
    (∀ b : Byte, s.fbByte o = .val b → readMem (s.cfg.fbBase + o) .byte s = .next (some b.toNat, s)) ∧
    (o % 2 = 1 → readMem (s.cfg.fbBase + o) .word s = .refused .misaligned) ∧
    (o % 2 = 0 → s.fbByte o = .bot ∨ s.fbByte (o + 1) = .bot →
      ∃ l, readMem (s.cfg.fbBase + o) .word s = .next (none, s.recordFault (.uninitRead l))) ∧
    (∀ ch a : Byte, o % 2 = 0 → s.fbByte o = .val ch → s.fbByte (o + 1) = .val a →
      readMem (s.cfg.fbBase + o) .word s = .next (some (a.toNat * 256 + ch.toNat), s))

/-- 20_memory.md R44: window writes, of one byte and of two, change only the bytes they name; an odd word write is refused. -/
def Obligations.WindowWrites : Prop :=
  ∀ (s : State) (o v : Nat), o < 4000 →
    (∃ t, writeMem (s.cfg.fbBase + o) .byte v s = .next t ∧ t.fbByte o = .val (BitVec.ofNat 8 v) ∧
      (∀ a, a ≠ o → t.fbByte a = s.fbByte a) ∧ t = { s with fb := t.fb }) ∧
    (o % 2 = 1 → writeMem (s.cfg.fbBase + o) .word v s = .refused .misaligned) ∧
    (o % 2 = 0 → ∃ t, writeMem (s.cfg.fbBase + o) .word v s = .next t ∧ t.fbByte o = .val (BitVec.ofNat 8 v) ∧
      t.fbByte (o + 1) = .val (BitVec.ofNat 8 (v / 256)) ∧ (∀ a, a ≠ o → a ≠ o + 1 → t.fbByte a = s.fbByte a) ∧
      t = { s with fb := t.fb })

/-- 20_memory.md R43 to R45: a word written to the window at an even offset is read back as written. -/
def Obligations.WindowWordRoundTrip : Prop :=
  ∀ (s : State) (o v : Nat), o < 4000 → o % 2 = 0 → v < 65536 →
    ∃ t, writeMem (s.cfg.fbBase + o) .word v s = .next t ∧ readMem (s.cfg.fbBase + o) .word t = .next (some v, t)

/-- 20_memory.md R42 and log entries 10 and 11: an access that starts outside the window is not the block's, and a word access at
the window's last byte, which would straddle its end, is refused as misaligned. -/
def Obligations.WindowEdges : Prop :=
  ∀ (s : State) (v a : Nat) (w : Width),
    (a < s.cfg.fbBase ∨ s.cfg.fbBase + 4000 ≤ a →
      readMem a w s = .refused .foreignAddress ∧ writeMem a w v s = .refused .foreignAddress) ∧
    (a = s.cfg.fbBase + 3999 → readMem a .word s = .refused .misaligned ∧ writeMem a .word v s = .refused .misaligned)

/-! ### The machine -/

/-- 70_reset_and_hazards.md R170, 10_state.md R31: what reset leaves. -/
def Obligations.ResetValues : Prop :=
  (∀ o, State.reset.fbByte o = .bot) ∧ State.reset.curHi = .bot ∧ State.reset.curLo = .bot ∧ State.reset.crtcIdx = .bot ∧
  State.reset.shift = false ∧ State.reset.kbdBuf = 0x00 ∧ State.reset.kbdObf = false ∧ State.reset.arg = 0x0000 ∧
  State.reset.res = 0x0000 ∧ State.reset.faults = [] ∧ State.reset.refused = false

/-- A step runs the decoded command (30_encoding.md R64; the turns, the host's program in the state and the placing of a word are
the model's choice, log entries 5 and 6): when the host's statement is a CMD write and the command word `op : ARG`
decodes to `i`, the step is `exec i` on the state with the turn taken, and then the host's pc advances by 1 (it stays where the command
recorded a fault, and that record is all that changed, 60_exceptions.md R153; log entry 8); a placed table word is
issued by the very next step. -/
def Obligations.StepRunsTheDecodedCommand : Prop :=
  (∀ (s : State) (i : Instr), s.issues i →
    step s = andThen (exec i s.takeTurn) (fun t => .next t.afterAccess) ∧
    (∀ t, exec i s.takeTurn = .next t → t.faults = s.faults → step s = .next { t with pc := s.pc + 1 }) ∧
    (∀ t, exec i s.takeTurn = .next t → t.faults ≠ s.faults → step s = .next t ∧ t = { s.takeTurn with faults := t.faults })) ∧
  (∀ (s : State) (w : Nat) (i : Instr), decodeTableWord 24 w = some i → (s.withFetchWord 24 w).issues i)

/-- The invariant holds after reset (10_state.md R31). -/
def Obligations.ResetHasTheInvariant : Prop := State.reset.Inv

/-- Every step keeps the invariant: the framebuffer's canonical form with every offset below FB_SIZE (10_state.md R16), RES in the
forms of R28, and the host's lists in canonical form. -/
def Obligations.StepKeepsTheInvariant : Prop := ∀ s t : State, s.Inv → step s = .next t → t.Inv

/-- 10_state.md R24: a step that changes SHIFT is the issue of a TRANSLATE of a shift key's code. -/
def Obligations.OnlyShiftCodesChangeShift : Prop :=
  ∀ s t : State, step s = .next t → t.shift ≠ s.shift →
    ∃ k, s.issues (.translate k) ∧ isShiftCode s.cfg (baseCode k) = true

/-- 10_state.md R28: a step that changes RES is the issue of a TRANSLATE. -/
def Obligations.OnlyTranslateChangesRes : Prop :=
  ∀ s t : State, step s = .next t → t.res ≠ s.res → ∃ k, s.issues (.translate k)

/-- 10_state.md R16: a step that changes FB is the issue of a PUTC, CLEAR or SCROLL, or a host write to the window. -/
def Obligations.OnlyDisplayCommandsAndWindowWritesChangeFb : Prop :=
  ∀ s t : State, step s = .next t → t.fb ≠ s.fb →
    (∃ i, isDisplayCommand i = true ∧ s.issues i) ∨ ∃ w m v, s.executes (.st w m v)

/-- 10_state.md R31 ("written by"), R21: a step that changes the cursor is the issue of a PUTC, CLEAR or SCROLL, or a host write of
the cursor data port. -/
def Obligations.OnlyDisplayCommandsAndDataPortChangeCursor : Prop :=
  ∀ s t : State, step s = .next t → t.curHi ≠ s.curHi ∨ t.curLo ≠ s.curLo →
    (∃ i, isDisplayCommand i = true ∧ s.issues i) ∨
    ∃ p v, s.executes (.out .byte p v) ∧ p.resolve s = .next .crtcData

/-- 10_state.md R31 ("written by"): a step that changes KBD_BUF is a delivery, and one that changes KBD_OBF is a delivery or a host
read of the keyboard data port. -/
def Obligations.OnlyDeliveriesAndReadsChangeKeyboardRegisters : Prop :=
  ∀ s t : State, step s = .next t →
    (t.kbdBuf ≠ s.kbdBuf → ∃ k, s.turn = .key k) ∧
    (t.kbdObf ≠ s.kbdObf → (∃ k, s.turn = .key k) ∨ ∃ p d, s.executes (.inp .byte p d) ∧ p.resolve s = .next .kbdData)

/-- 60_exceptions.md R151, with R82, R85, R88, R89 and R43: a step records a fault of kind `k`, with the host statement that raised it,
and changes nothing else, exactly where the table of R151 says that `k` is raised. (Which of two ⊥ bytes of a word read is named is the
model's choice, log entry 16, and so is that the host's pc stays, log entry 8.) -/
def Obligations.FaultsAreRaisedExactlyWhereTheTableSays : Prop :=
  ∀ (s : State) (k : FaultKind), s.raises k ↔ step s = .next { s.takeTurn with faults := s.faults ++ [⟨k, s.pc⟩] }

/-- 60_exceptions.md R153: a fault or refusal changes no state of the block; it is recorded with the host statement that raised it,
no step clears what is recorded, and a state with one recorded takes no further host step. That the step answers a refusal and
`settledStep` records it, and that the host's turn then passes with nothing done, are the model's choice (log entries 7 and 8). -/
def Obligations.FaultsAndRefusalsOnlyMarkTheState : Prop :=
  (∀ s t : State, step s = .next t → t.refused = s.refused ∧
    (t.faults = s.faults ∨
      ∃ k, t = { s.takeTurn with faults := s.faults ++ [⟨k, s.pc⟩] } ∧ s.quiescent = false ∧ t.quiescent = true)) ∧
  (∀ (s : State) (r : Refusal), step s = .refused r →
    settledStep s = { s.takeTurn with refused := true } ∧ (settledStep s).quiescent = true) ∧
  (∀ s : State, s.quiescent = true → s.turn = .host → step s = .next s.takeTurn)

/-- 10_state.md R26, 00_scope.md R8: no step changes the configuration, the translation tables among it; and 30_encoding.md R76: no
step changes the host's program. That both stand in the state is the model's choice (log entries 2 and 6). -/
def Obligations.StepKeepsTheConfiguration : Prop :=
  ∀ s t : State, step s = .next t → t.config = s.config ∧ t.program = s.program

/-- 30_encoding.md R76: assignments, jumps and returns touch no state of the block, and the pc moves as the rule says. That a label is
a statement's number and that a return sets the pc to the end is the model's choice (log entry 15). -/
def Obligations.HostControlTouchesNoBlockState : Prop :=
  ∀ s : State,
    (∀ d e, runStmt (.assign d e) s = .next { s with temps := (s.setTemp d (e.eval s)).temps, pc := s.pc + 1 }) ∧
    (∀ d e k, (s.setTemp d e).temp k = if k = d then e else s.temp k) ∧
    (∀ l, runStmt (.jump l) s = .next { s with pc := l }) ∧
    (∀ c l, c.holds s = true → runStmt (.jumpIf c l) s = .next { s with pc := l }) ∧
    (∀ c l, c.holds s = false → runStmt (.jumpIf c l) s = .next { s with pc := s.pc + 1 }) ∧
    (∀ e, ∃ t, runStmt (.ret e) s = .next t ∧ t.ended = true ∧ t = { s with pc := t.pc, returned := t.returned } ∧
      t.returned = e.map (Expr.eval s))
end

