-- ==== Sys2Proof/Laws/Decode.lean ====
section
/-!
SUPPORT. The fields of a command word that is put together from its opcode and ARG (30_encoding.md R64, R67).
-/

namespace Sys2Proof

@[simp] theorem opcodeField_commandWord (op : Byte) (arg : Word) : opcodeField (commandWord op arg) = op :=
  BitVec.extractLsb'_append_eq_left ..

theorem attrField_commandWord (op : Byte) (arg : Word) : attrField (commandWord op arg) = arg.extractLsb' 8 8 :=
  BitVec.extractLsb'_append_eq_of_add_le (by decide)

theorem lowField_commandWord (op : Byte) (arg : Word) : lowField (commandWord op arg) = arg.extractLsb' 0 8 :=
  BitVec.extractLsb'_append_eq_of_add_le (by decide)

@[simp] theorem hiLo_hi (a b : Byte) : (hiLo a b).extractLsb' 8 8 = a := BitVec.extractLsb'_append_eq_left ..
@[simp] theorem hiLo_lo (a b : Byte) : (hiLo a b).extractLsb' 0 8 = b := BitVec.extractLsb'_append_eq_right ..

/-- `a : b` is a x 256 + b (00_scope.md R10). -/
theorem toNat_hiLo (a b : Byte) : (hiLo a b).toNat = a.toNat * 256 + b.toNat := by
  rw [hiLo, BitVec.toNat_append, Nat.shiftLeft_eq, Nat.mul_comm, ← Nat.two_pow_add_eq_or_of_lt b.isLt, Nat.mul_comm]

/-- A command word is its opcode field and its low 16 bits. -/
theorem commandWord_fields (w : CommandWord) : commandWord (opcodeField w) (w.extractLsb' 0 16) = w := by
  apply BitVec.eq_of_getLsbD_eq
  intro i hi
  simp only [commandWord, opcodeField, BitVec.getLsbD_append, BitVec.getLsbD_extractLsb']
  by_cases h : i < 16
  · simp [h]
  · have : i - 16 < 8 := by omega
    simp [h, this, show 16 + (i - 16) = i by omega]

end Sys2Proof
end

