-- ==== Sys2Proof/Laws/Params.lean ====
section
/-!
SUPPORT. The values of the derived parameters of 00_scope.md R8, in the numbers that table gives.
-/

namespace Sys2Proof.Machine

@[simp] theorem rows_eq : rows = 25 := rfl
@[simp] theorem cols_eq : cols = 80 := rfl
@[simp] theorem cellBytes_eq : cellBytes = 2 := rfl
@[simp] theorem rowBytes_eq : rowBytes = 160 := rfl
@[simp] theorem numCells_eq : numCells = 2000 := rfl
@[simp] theorem fbSize_eq : fbSize = 4000 := rfl
@[simp] theorem lastRowOff_eq : lastRowOff = 3840 := rfl
@[simp] theorem lastRowCell_eq : lastRowCell = 1920 := rfl

end Sys2Proof.Machine
end

