-- ==== Sys2Proof/Laws/Memory.lean ====
section
/-!
SUPPORT. The laws of sparse lists and of the framebuffer on them: a read after a write, and that every operation keeps the
canonical form.
-/

namespace Sys2Proof.Machine

variable {β : Type}

/-! ### Sparse lists -/

@[simp] theorem Sparse.get_put_same (k : Nat) (v : β) (l : List (Nat × β)) : Sparse.get (Sparse.put k v l) k = some v := by
  induction l with
  | nil => simp [Sparse.put, Sparse.get]
  | cons c r ih =>
    obtain ⟨k', v'⟩ := c
    simp only [Sparse.put]
    split
    · simp [Sparse.get]
    · split
      · simp [Sparse.get]
      · rename_i h; simp [Sparse.get, ih, Ne.symm h]

theorem Sparse.get_put_ne {k k' : Nat} (v : β) (l : List (Nat × β)) (h : k' ≠ k) :
    Sparse.get (Sparse.put k v l) k' = Sparse.get l k' := by
  induction l with
  | nil => simp [Sparse.put, Sparse.get, h.symm]
  | cons c r ih =>
    obtain ⟨j, u⟩ := c
    simp only [Sparse.put]
    split
    · simp [Sparse.get, h.symm]
    · split
      · rename_i e; subst e; simp [Sparse.get, h.symm]
      · simp only [Sparse.get, ih]

theorem Sparse.get_put (k k' : Nat) (v : β) (l : List (Nat × β)) :
    Sparse.get (Sparse.put k v l) k' = if k' = k then some v else Sparse.get l k' := by
  split
  · rename_i e; subst e; exact Sparse.get_put_same ..
  · rename_i h; exact Sparse.get_put_ne v l h

theorem Sparse.get_erase (k k' : Nat) (l : List (Nat × β)) :
    Sparse.get (Sparse.erase k l) k' = if k' = k then none else Sparse.get l k' := by
  induction l with
  | nil => simp [Sparse.erase, Sparse.get]
  | cons c r ih =>
    obtain ⟨j, u⟩ := c
    simp only [Sparse.erase, List.filter_cons] at ih ⊢
    by_cases hj : j = k
    · subst hj
      by_cases hk : k' = j
      · subst hk; simpa using ih
      · simpa [Sparse.get, hk, Ne.symm hk] using ih
    · by_cases hk : j = k'
      · subst hk; simp [Sparse.get, hj]
      · simpa [Sparse.get, hj, hk] using ih

theorem Sparse.get_append (l r : List (Nat × β)) (k : Nat) :
    Sparse.get (l ++ r) k = (Sparse.get l k).or (Sparse.get r k) := by
  induction l with
  | nil => simp [Sparse.get]
  | cons c t ih =>
    obtain ⟨j, u⟩ := c
    simp only [List.cons_append, Sparse.get]
    split <;> simp_all

theorem Sparse.rising_mono {lo lo' : Nat} {l : List (Nat × β)} (h : Sparse.rising lo l = true) (hlo : lo' ≤ lo) :
    Sparse.rising lo' l = true := by
  cases l with
  | nil => rfl
  | cons c r =>
    simp only [Sparse.rising, Bool.and_eq_true, decide_eq_true_eq] at h ⊢
    exact ⟨by omega, h.2⟩

theorem Sparse.rising_put {lo k : Nat} (v : β) {l : List (Nat × β)} (h : Sparse.rising lo l = true) (hk : lo ≤ k) :
    Sparse.rising lo (Sparse.put k v l) = true := by
  induction l generalizing lo with
  | nil => simp [Sparse.put, Sparse.rising, hk]
  | cons c r ih =>
    simp only [Sparse.rising, Bool.and_eq_true, decide_eq_true_eq] at h
    simp only [Sparse.put]
    split
    · simp [Sparse.rising, hk, h.2]; omega
    · split
      · rename_i e; subst e; simp [Sparse.rising, h]
      · simp only [Sparse.rising, Bool.and_eq_true, decide_eq_true_eq]
        exact ⟨h.1, ih h.2 (by omega)⟩

theorem Sparse.rising_filter {lo : Nat} (p : Nat × β → Bool) {l : List (Nat × β)} (h : Sparse.rising lo l = true) :
    Sparse.rising lo (l.filter p) = true := by
  induction l generalizing lo with
  | nil => rfl
  | cons c r ih =>
    simp only [Sparse.rising, Bool.and_eq_true, decide_eq_true_eq] at h
    simp only [List.filter_cons]
    split
    · simp only [Sparse.rising, Bool.and_eq_true, decide_eq_true_eq]; exact ⟨h.1, ih h.2⟩
    · exact ih (Sparse.rising_mono h.2 (by omega))

theorem Sparse.rising_erase {lo k : Nat} {l : List (Nat × β)} (h : Sparse.rising lo l = true) :
    Sparse.rising lo (Sparse.erase k l) = true := Sparse.rising_filter _ h

/-- A list whose keys rise from `lo` lists nothing below `lo`. -/
theorem Sparse.get_lt_of_rising {lo k : Nat} {l : List (Nat × β)} (h : Sparse.rising lo l = true) (hk : k < lo) :
    Sparse.get l k = none := by
  induction l generalizing lo with
  | nil => rfl
  | cons c r ih =>
    simp only [Sparse.rising, Bool.and_eq_true, decide_eq_true_eq] at h
    simp only [Sparse.get]
    rw [if_neg (by omega), ih h.2 (by omega)]

/-- Two canonical lists that read alike at every key are the same list. -/
theorem Sparse.ext_of_rising {lo : Nat} {l r : List (Nat × β)} (hl : Sparse.rising lo l = true) (hr : Sparse.rising lo r = true)
    (h : ∀ k, Sparse.get l k = Sparse.get r k) : l = r := by
  induction l generalizing lo r with
  | nil =>
    cases r with
    | nil => rfl
    | cons c r' => have := h c.1; simp [Sparse.get] at this
  | cons c l' ih =>
    cases r with
    | nil => have := h c.1; simp [Sparse.get] at this
    | cons d r' =>
      obtain ⟨k, u⟩ := c
      obtain ⟨j, v⟩ := d
      simp only [Sparse.rising, Bool.and_eq_true, decide_eq_true_eq] at hl hr
      have hkj : k = j := by
        rcases Nat.lt_trichotomy k j with hlt | heq | hgt
        · have := h k
          simp [Sparse.get, Nat.ne_of_gt hlt, Sparse.get_lt_of_rising hr.2 (by omega : k < j + 1)] at this
        · exact heq
        · have := h j
          simp [Sparse.get, Nat.ne_of_gt hgt, Sparse.get_lt_of_rising hl.2 (by omega : j < k + 1)] at this
      subst hkj
      have huv : u = v := by have := h k; simpa [Sparse.get] using this
      subst huv
      refine congrArg _ (ih hl.2 hr.2 fun i => ?_)
      have := h i
      by_cases hi : k = i
      · subst hi
        rw [Sparse.get_lt_of_rising hl.2 (by omega), Sparse.get_lt_of_rising hr.2 (by omega)]
      · simpa [Sparse.get, hi] using this

theorem Sparse.mem_put {k : Nat} {v : β} {l : List (Nat × β)} {e : Nat × β} (h : e ∈ Sparse.put k v l) : e = (k, v) ∨ e ∈ l := by
  induction l with
  | nil => simp [Sparse.put] at h; exact .inl h
  | cons c r ih =>
    simp only [Sparse.put] at h
    split at h
    · simpa using h
    · split at h
      · simp only [List.mem_cons] at h ⊢; tauto
      · simp only [List.mem_cons] at h ⊢
        rcases h with rfl | h
        · exact .inr (.inl rfl)
        · rcases ih h with h | h
          · exact .inl h
          · exact .inr (.inr h)

theorem Sparse.mem_erase {k : Nat} {l : List (Nat × β)} {e : Nat × β} (h : e ∈ Sparse.erase k l) : e ∈ l :=
  List.mem_of_mem_filter h

/-! ### The framebuffer -/

theorem Memory.read_write (m : List Host.Cell) (o o' : Nat) (b : Byte) :
    Memory.read (Memory.write m o b) o' = if o' = o then .val b else Memory.read m o' := by
  unfold Memory.read Memory.write
  rw [Sparse.get_put]
  by_cases h : o' = o <;> simp [h]

/-- `FB[o] <- x` with `x` a byte or the mark is read back as `x`, and nothing else changes. -/
theorem Memory.read_copyTo (m : List Host.Cell) (o o' : Nat) (x : MByte) :
    Memory.read (Memory.copyTo m o x) o' = if o' = o then x else Memory.read m o' := by
  cases x with
  | val b => simp only [Memory.copyTo, Memory.read_write]
  | bot =>
    unfold Memory.read Memory.copyTo
    simp only [Sparse.get_erase]
    by_cases h : o' = o <;> simp [h]

theorem Memory.wf_nil : Memory.wf [] = true := rfl

theorem Memory.wf_write {m : List Host.Cell} {o : Nat} (b : Byte) (h : Memory.wf m = true) (ho : o < fbSize) :
    Memory.wf (Memory.write m o b) = true := by
  simp only [Memory.wf, Bool.and_eq_true, List.all_eq_true, decide_eq_true_eq] at h ⊢
  refine ⟨Sparse.rising_put b h.1 (Nat.zero_le _), fun e he => ?_⟩
  rcases Sparse.mem_put he with rfl | he
  · exact ho
  · exact h.2 e he

theorem Memory.wf_copyTo {m : List Host.Cell} {o : Nat} (x : MByte) (h : Memory.wf m = true) (ho : o < fbSize) :
    Memory.wf (Memory.copyTo m o x) = true := by
  cases x with
  | val b => exact Memory.wf_write b h ho
  | bot =>
    simp only [Memory.wf, Memory.copyTo, Bool.and_eq_true, List.all_eq_true, decide_eq_true_eq] at h ⊢
    exact ⟨Sparse.rising_erase h.1, fun e he => h.2 e (Sparse.mem_erase he)⟩

/-- A key that no entry has is not listed. -/
theorem Sparse.get_of_forall_ne {k : Nat} {l : List (Nat × β)} (h : ∀ e ∈ l, e.1 ≠ k) : Sparse.get l k = none := by
  induction l with
  | nil => rfl
  | cons c r ih =>
    simp only [Sparse.get]
    rw [if_neg (h c (List.mem_cons_self ..)), ih fun e he => h e (List.mem_cons_of_mem _ he)]

/-- A canonical framebuffer lists nothing at or above FB_SIZE. -/
theorem Memory.read_of_fbSize_le {m : List Host.Cell} {o : Nat} (h : Memory.wf m = true) (ho : fbSize ≤ o) :
    Memory.read m o = .bot := by
  simp only [Memory.wf, Bool.and_eq_true, List.all_eq_true, decide_eq_true_eq] at h
  unfold Memory.read
  rw [Sparse.get_of_forall_ne fun e he => by have := h.2 e he; omega]

/-- Two canonical framebuffers that read alike at every offset are the same list. -/
theorem Memory.ext {m n : List Host.Cell} (hm : Memory.wf m = true) (hn : Memory.wf n = true)
    (h : ∀ o, Memory.read m o = Memory.read n o) : m = n := by
  simp only [Memory.wf, Bool.and_eq_true] at hm hn
  refine Sparse.ext_of_rising hm.1 hn.1 fun k => ?_
  have hk := h k
  unfold Memory.read at hk
  cases hx : Sparse.get m k <;> cases hy : Sparse.get n k <;> simp_all

theorem State.fbByte_setFbByte (s : State) (o o' : Nat) (b : Byte) (ho : o < fbSize) :
    (s.setFbByte o b).fbByte o' = if o' = o then .val b else s.fbByte o' := by
  unfold State.fbByte State.setFbByte
  simp only [Memory.read_write]
  by_cases h : o' = o
  · subst h; rw [if_pos ho, if_pos rfl, if_pos rfl]
  · simp only [if_neg h]

/-- A cell written at an even offset of the surface: its two bytes, and no other. -/
theorem State.fbByte_setCellAt (s : State) (o o' : Nat) (ch a : Byte) (ho : o + 1 < fbSize) :
    (s.setCellAt o ch a).fbByte o' = if o' = o + 1 then .val a else if o' = o then .val ch else s.fbByte o' := by
  unfold State.setCellAt
  rw [State.fbByte_setFbByte _ _ _ _ ho, State.fbByte_setFbByte _ _ _ _ (by omega)]

/-! ### Temporaries -/

theorem State.temp_setTemp (s : State) (k k' v : Nat) : (s.setTemp k v).temp k' = if k' = k then v else s.temp k' := by
  unfold State.temp State.setTemp
  by_cases hv : v = 0
  · simp only [hv, if_true, Sparse.get_erase]; split <;> simp
  · simp only [hv, if_false, Sparse.get_put]; split <;> simp

end Sys2Proof.Machine
end

