-- ==== Sys2Proof/Laws/Config.lean ====
section
/-!
SUPPORT. What an admitted configuration gives: the constraints of 00_scope.md R8 and 41_keyboard.md R117, one by one.
-/

namespace Sys2Proof

open Sys2Proof.Machine

theorem Config.valid_iff (c : Config) :
    c.valid = true ↔ c.shiftCodeBOk = true ∧ c.spaceCodeOk = true ∧ Config.tableOk c.unshifted chLowerA = true ∧
      Config.tableOk c.shifted chUpperA = true ∧ c.portsOk = true := by
  simp only [Config.valid, Bool.and_eq_true, and_assoc]

/-- SHIFT_CODE_B is a 7-bit code other than SHIFT_CODE_A and SPACE_CODE. -/
theorem Config.shiftCodeBOk_iff (c : Config) :
    c.shiftCodeBOk = true ↔ 1 ≤ c.shiftCodeB.toNat ∧ c.shiftCodeB.toNat ≤ 0x7F ∧ c.shiftCodeB ≠ shiftCodeA ∧
      c.shiftCodeB ≠ c.spaceCode := by
  simp only [Config.shiftCodeBOk, Config.isKeyCode, Bool.and_eq_true, decide_eq_true_eq, bne_iff_ne, and_assoc]

/-- SPACE_CODE is a 7-bit code other than SHIFT_CODE_A. -/
theorem Config.spaceCodeOk_iff (c : Config) :
    c.spaceCodeOk = true ↔ 1 ≤ c.spaceCode.toNat ∧ c.spaceCode.toNat ≤ 0x7F ∧ c.spaceCode ≠ shiftCodeA := by
  simp only [Config.spaceCodeOk, Config.isKeyCode, Bool.and_eq_true, decide_eq_true_eq, bne_iff_ne, and_assoc]

/-- A table has 52 entries, none of them the character 0x00, and the fixed one for 0x1E at its place, number 28. -/
theorem Config.tableOk_iff (t : List (Option Byte)) (a : Byte) :
    Config.tableOk t a = true ↔ t.length = 52 ∧ (∀ e ∈ t, e ≠ some 0) ∧ t[28]? = some (some a) := by
  simp only [Config.tableOk, Bool.and_eq_true, decide_eq_true_eq, List.all_eq_true, bne_iff_ne, and_assoc]
  rfl

/-- CTRL_BASE is even and leaves room for its six ports, and the ten ports are distinct. -/
theorem Config.portsOk_iff (c : Config) :
    c.portsOk = true ↔ c.ctrlBase.toNat % 2 = 0 ∧ c.ctrlBase.toNat + 5 ≤ 0xFFFF ∧ c.portNumbers.Nodup := by
  simp only [Config.portsOk, Bool.and_eq_true, decide_eq_true_eq, and_assoc]

end Sys2Proof
end

