-- ==== Sys2Proof/Laws/State.lean ====
section
/-!
SUPPORT. One lemma for each field of the state and each named update: what the update leaves in the field.
-/

namespace Sys2Proof.Machine

/-! ### `FB[o] <- b` -/

@[simp] theorem State.setFbByte_config (s : State) (o : Nat) (b : Byte) : (s.setFbByte o b).config = s.config := rfl
@[simp] theorem State.setFbByte_cfg (s : State) (o : Nat) (b : Byte) : (s.setFbByte o b).cfg = s.cfg := rfl
@[simp] theorem State.setFbByte_fb (s : State) (o : Nat) (b : Byte) : (s.setFbByte o b).fb = Memory.write s.fb o b := rfl
@[simp] theorem State.setFbByte_curHi (s : State) (o : Nat) (b : Byte) : (s.setFbByte o b).curHi = s.curHi := rfl
@[simp] theorem State.setFbByte_curLo (s : State) (o : Nat) (b : Byte) : (s.setFbByte o b).curLo = s.curLo := rfl
@[simp] theorem State.setFbByte_crtcIdx (s : State) (o : Nat) (b : Byte) : (s.setFbByte o b).crtcIdx = s.crtcIdx := rfl
@[simp] theorem State.setFbByte_shift (s : State) (o : Nat) (b : Byte) : (s.setFbByte o b).shift = s.shift := rfl
@[simp] theorem State.setFbByte_kbdBuf (s : State) (o : Nat) (b : Byte) : (s.setFbByte o b).kbdBuf = s.kbdBuf := rfl
@[simp] theorem State.setFbByte_kbdObf (s : State) (o : Nat) (b : Byte) : (s.setFbByte o b).kbdObf = s.kbdObf := rfl
@[simp] theorem State.setFbByte_arg (s : State) (o : Nat) (b : Byte) : (s.setFbByte o b).arg = s.arg := rfl
@[simp] theorem State.setFbByte_res (s : State) (o : Nat) (b : Byte) : (s.setFbByte o b).res = s.res := rfl
@[simp] theorem State.setFbByte_faults (s : State) (o : Nat) (b : Byte) : (s.setFbByte o b).faults = s.faults := rfl
@[simp] theorem State.setFbByte_refused (s : State) (o : Nat) (b : Byte) : (s.setFbByte o b).refused = s.refused := rfl
@[simp] theorem State.setFbByte_program (s : State) (o : Nat) (b : Byte) : (s.setFbByte o b).program = s.program := rfl
@[simp] theorem State.setFbByte_pc (s : State) (o : Nat) (b : Byte) : (s.setFbByte o b).pc = s.pc := rfl
@[simp] theorem State.setFbByte_temps (s : State) (o : Nat) (b : Byte) : (s.setFbByte o b).temps = s.temps := rfl
@[simp] theorem State.setFbByte_buf (s : State) (o : Nat) (b : Byte) : (s.setFbByte o b).buf = s.buf := rfl
@[simp] theorem State.setFbByte_returned (s : State) (o : Nat) (b : Byte) : (s.setFbByte o b).returned = s.returned := rfl
@[simp] theorem State.setFbByte_schedule (s : State) (o : Nat) (b : Byte) : (s.setFbByte o b).schedule = s.schedule := rfl
@[simp] theorem State.setFbByte_turns (s : State) (o : Nat) (b : Byte) : (s.setFbByte o b).turns = s.turns := rfl
@[simp] theorem State.setFbByte_draws (s : State) (o : Nat) (b : Byte) : (s.setFbByte o b).draws = s.draws := rfl

/-! ### a cell written -/

@[simp] theorem State.setCellAt_config (s : State) (o : Nat) (ch at' : Byte) : (s.setCellAt o ch at').config = s.config := rfl
@[simp] theorem State.setCellAt_cfg (s : State) (o : Nat) (ch at' : Byte) : (s.setCellAt o ch at').cfg = s.cfg := rfl
@[simp] theorem State.setCellAt_fb (s : State) (o : Nat) (ch at' : Byte) : (s.setCellAt o ch at').fb = Memory.write (Memory.write s.fb o ch) (o + 1) at' := rfl
@[simp] theorem State.setCellAt_curHi (s : State) (o : Nat) (ch at' : Byte) : (s.setCellAt o ch at').curHi = s.curHi := rfl
@[simp] theorem State.setCellAt_curLo (s : State) (o : Nat) (ch at' : Byte) : (s.setCellAt o ch at').curLo = s.curLo := rfl
@[simp] theorem State.setCellAt_crtcIdx (s : State) (o : Nat) (ch at' : Byte) : (s.setCellAt o ch at').crtcIdx = s.crtcIdx := rfl
@[simp] theorem State.setCellAt_shift (s : State) (o : Nat) (ch at' : Byte) : (s.setCellAt o ch at').shift = s.shift := rfl
@[simp] theorem State.setCellAt_kbdBuf (s : State) (o : Nat) (ch at' : Byte) : (s.setCellAt o ch at').kbdBuf = s.kbdBuf := rfl
@[simp] theorem State.setCellAt_kbdObf (s : State) (o : Nat) (ch at' : Byte) : (s.setCellAt o ch at').kbdObf = s.kbdObf := rfl
@[simp] theorem State.setCellAt_arg (s : State) (o : Nat) (ch at' : Byte) : (s.setCellAt o ch at').arg = s.arg := rfl
@[simp] theorem State.setCellAt_res (s : State) (o : Nat) (ch at' : Byte) : (s.setCellAt o ch at').res = s.res := rfl
@[simp] theorem State.setCellAt_faults (s : State) (o : Nat) (ch at' : Byte) : (s.setCellAt o ch at').faults = s.faults := rfl
@[simp] theorem State.setCellAt_refused (s : State) (o : Nat) (ch at' : Byte) : (s.setCellAt o ch at').refused = s.refused := rfl
@[simp] theorem State.setCellAt_program (s : State) (o : Nat) (ch at' : Byte) : (s.setCellAt o ch at').program = s.program := rfl
@[simp] theorem State.setCellAt_pc (s : State) (o : Nat) (ch at' : Byte) : (s.setCellAt o ch at').pc = s.pc := rfl
@[simp] theorem State.setCellAt_temps (s : State) (o : Nat) (ch at' : Byte) : (s.setCellAt o ch at').temps = s.temps := rfl
@[simp] theorem State.setCellAt_buf (s : State) (o : Nat) (ch at' : Byte) : (s.setCellAt o ch at').buf = s.buf := rfl
@[simp] theorem State.setCellAt_returned (s : State) (o : Nat) (ch at' : Byte) : (s.setCellAt o ch at').returned = s.returned := rfl
@[simp] theorem State.setCellAt_schedule (s : State) (o : Nat) (ch at' : Byte) : (s.setCellAt o ch at').schedule = s.schedule := rfl
@[simp] theorem State.setCellAt_turns (s : State) (o : Nat) (ch at' : Byte) : (s.setCellAt o ch at').turns = s.turns := rfl
@[simp] theorem State.setCellAt_draws (s : State) (o : Nat) (ch at' : Byte) : (s.setCellAt o ch at').draws = s.draws := rfl

/-! ### SetCur -/

@[simp] theorem State.setCur_config (s : State) (v : Nat) : (s.setCur v).config = s.config := rfl
@[simp] theorem State.setCur_cfg (s : State) (v : Nat) : (s.setCur v).cfg = s.cfg := rfl
@[simp] theorem State.setCur_fb (s : State) (v : Nat) : (s.setCur v).fb = s.fb := rfl
@[simp] theorem State.setCur_curHi (s : State) (v : Nat) : (s.setCur v).curHi = .val (BitVec.ofNat 8 (v / 256)) := rfl
@[simp] theorem State.setCur_curLo (s : State) (v : Nat) : (s.setCur v).curLo = .val (BitVec.ofNat 8 v) := rfl
@[simp] theorem State.setCur_crtcIdx (s : State) (v : Nat) : (s.setCur v).crtcIdx = s.crtcIdx := rfl
@[simp] theorem State.setCur_shift (s : State) (v : Nat) : (s.setCur v).shift = s.shift := rfl
@[simp] theorem State.setCur_kbdBuf (s : State) (v : Nat) : (s.setCur v).kbdBuf = s.kbdBuf := rfl
@[simp] theorem State.setCur_kbdObf (s : State) (v : Nat) : (s.setCur v).kbdObf = s.kbdObf := rfl
@[simp] theorem State.setCur_arg (s : State) (v : Nat) : (s.setCur v).arg = s.arg := rfl
@[simp] theorem State.setCur_res (s : State) (v : Nat) : (s.setCur v).res = s.res := rfl
@[simp] theorem State.setCur_faults (s : State) (v : Nat) : (s.setCur v).faults = s.faults := rfl
@[simp] theorem State.setCur_refused (s : State) (v : Nat) : (s.setCur v).refused = s.refused := rfl
@[simp] theorem State.setCur_program (s : State) (v : Nat) : (s.setCur v).program = s.program := rfl
@[simp] theorem State.setCur_pc (s : State) (v : Nat) : (s.setCur v).pc = s.pc := rfl
@[simp] theorem State.setCur_temps (s : State) (v : Nat) : (s.setCur v).temps = s.temps := rfl
@[simp] theorem State.setCur_buf (s : State) (v : Nat) : (s.setCur v).buf = s.buf := rfl
@[simp] theorem State.setCur_returned (s : State) (v : Nat) : (s.setCur v).returned = s.returned := rfl
@[simp] theorem State.setCur_schedule (s : State) (v : Nat) : (s.setCur v).schedule = s.schedule := rfl
@[simp] theorem State.setCur_turns (s : State) (v : Nat) : (s.setCur v).turns = s.turns := rfl
@[simp] theorem State.setCur_draws (s : State) (v : Nat) : (s.setCur v).draws = s.draws := rfl

/-! ### ScrollCore -/

@[simp] theorem State.scrollCore_config (s : State) : s.scrollCore.config = s.config := rfl
@[simp] theorem State.scrollCore_cfg (s : State) : s.scrollCore.cfg = s.cfg := rfl
@[simp] theorem State.scrollCore_fb (s : State) : s.scrollCore.fb = scrolledRows s.cfg.defaultAttr s.fb := rfl
@[simp] theorem State.scrollCore_curHi (s : State) : s.scrollCore.curHi = .val 7 := rfl
@[simp] theorem State.scrollCore_curLo (s : State) : s.scrollCore.curLo = .val 128 := rfl
@[simp] theorem State.scrollCore_crtcIdx (s : State) : s.scrollCore.crtcIdx = s.crtcIdx := rfl
@[simp] theorem State.scrollCore_shift (s : State) : s.scrollCore.shift = s.shift := rfl
@[simp] theorem State.scrollCore_kbdBuf (s : State) : s.scrollCore.kbdBuf = s.kbdBuf := rfl
@[simp] theorem State.scrollCore_kbdObf (s : State) : s.scrollCore.kbdObf = s.kbdObf := rfl
@[simp] theorem State.scrollCore_arg (s : State) : s.scrollCore.arg = s.arg := rfl
@[simp] theorem State.scrollCore_res (s : State) : s.scrollCore.res = s.res := rfl
@[simp] theorem State.scrollCore_faults (s : State) : s.scrollCore.faults = s.faults := rfl
@[simp] theorem State.scrollCore_refused (s : State) : s.scrollCore.refused = s.refused := rfl
@[simp] theorem State.scrollCore_program (s : State) : s.scrollCore.program = s.program := rfl
@[simp] theorem State.scrollCore_pc (s : State) : s.scrollCore.pc = s.pc := rfl
@[simp] theorem State.scrollCore_temps (s : State) : s.scrollCore.temps = s.temps := rfl
@[simp] theorem State.scrollCore_buf (s : State) : s.scrollCore.buf = s.buf := rfl
@[simp] theorem State.scrollCore_returned (s : State) : s.scrollCore.returned = s.returned := rfl
@[simp] theorem State.scrollCore_schedule (s : State) : s.scrollCore.schedule = s.schedule := rfl
@[simp] theorem State.scrollCore_turns (s : State) : s.scrollCore.turns = s.turns := rfl
@[simp] theorem State.scrollCore_draws (s : State) : s.scrollCore.draws = s.draws := rfl

/-! ### a draw -/

@[simp] theorem State.afterDraw_config (s : State) : s.afterDraw.config = s.config := rfl
@[simp] theorem State.afterDraw_cfg (s : State) : s.afterDraw.cfg = s.cfg := rfl
@[simp] theorem State.afterDraw_fb (s : State) : s.afterDraw.fb = s.fb := rfl
@[simp] theorem State.afterDraw_curHi (s : State) : s.afterDraw.curHi = s.curHi := rfl
@[simp] theorem State.afterDraw_curLo (s : State) : s.afterDraw.curLo = s.curLo := rfl
@[simp] theorem State.afterDraw_crtcIdx (s : State) : s.afterDraw.crtcIdx = s.crtcIdx := rfl
@[simp] theorem State.afterDraw_shift (s : State) : s.afterDraw.shift = s.shift := rfl
@[simp] theorem State.afterDraw_kbdBuf (s : State) : s.afterDraw.kbdBuf = s.kbdBuf := rfl
@[simp] theorem State.afterDraw_kbdObf (s : State) : s.afterDraw.kbdObf = s.kbdObf := rfl
@[simp] theorem State.afterDraw_arg (s : State) : s.afterDraw.arg = s.arg := rfl
@[simp] theorem State.afterDraw_res (s : State) : s.afterDraw.res = s.res := rfl
@[simp] theorem State.afterDraw_faults (s : State) : s.afterDraw.faults = s.faults := rfl
@[simp] theorem State.afterDraw_refused (s : State) : s.afterDraw.refused = s.refused := rfl
@[simp] theorem State.afterDraw_program (s : State) : s.afterDraw.program = s.program := rfl
@[simp] theorem State.afterDraw_pc (s : State) : s.afterDraw.pc = s.pc := rfl
@[simp] theorem State.afterDraw_temps (s : State) : s.afterDraw.temps = s.temps := rfl
@[simp] theorem State.afterDraw_buf (s : State) : s.afterDraw.buf = s.buf := rfl
@[simp] theorem State.afterDraw_returned (s : State) : s.afterDraw.returned = s.returned := rfl
@[simp] theorem State.afterDraw_schedule (s : State) : s.afterDraw.schedule = s.schedule := rfl
@[simp] theorem State.afterDraw_turns (s : State) : s.afterDraw.turns = s.turns := rfl
@[simp] theorem State.afterDraw_draws (s : State) : s.afterDraw.draws = s.draws + 1 := rfl

/-! ### `t k <- v` -/

@[simp] theorem State.setTemp_config (s : State) (k v : Nat) : (s.setTemp k v).config = s.config := rfl
@[simp] theorem State.setTemp_cfg (s : State) (k v : Nat) : (s.setTemp k v).cfg = s.cfg := rfl
@[simp] theorem State.setTemp_fb (s : State) (k v : Nat) : (s.setTemp k v).fb = s.fb := rfl
@[simp] theorem State.setTemp_curHi (s : State) (k v : Nat) : (s.setTemp k v).curHi = s.curHi := rfl
@[simp] theorem State.setTemp_curLo (s : State) (k v : Nat) : (s.setTemp k v).curLo = s.curLo := rfl
@[simp] theorem State.setTemp_crtcIdx (s : State) (k v : Nat) : (s.setTemp k v).crtcIdx = s.crtcIdx := rfl
@[simp] theorem State.setTemp_shift (s : State) (k v : Nat) : (s.setTemp k v).shift = s.shift := rfl
@[simp] theorem State.setTemp_kbdBuf (s : State) (k v : Nat) : (s.setTemp k v).kbdBuf = s.kbdBuf := rfl
@[simp] theorem State.setTemp_kbdObf (s : State) (k v : Nat) : (s.setTemp k v).kbdObf = s.kbdObf := rfl
@[simp] theorem State.setTemp_arg (s : State) (k v : Nat) : (s.setTemp k v).arg = s.arg := rfl
@[simp] theorem State.setTemp_res (s : State) (k v : Nat) : (s.setTemp k v).res = s.res := rfl
@[simp] theorem State.setTemp_faults (s : State) (k v : Nat) : (s.setTemp k v).faults = s.faults := rfl
@[simp] theorem State.setTemp_refused (s : State) (k v : Nat) : (s.setTemp k v).refused = s.refused := rfl
@[simp] theorem State.setTemp_program (s : State) (k v : Nat) : (s.setTemp k v).program = s.program := rfl
@[simp] theorem State.setTemp_pc (s : State) (k v : Nat) : (s.setTemp k v).pc = s.pc := rfl
@[simp] theorem State.setTemp_temps (s : State) (k v : Nat) : (s.setTemp k v).temps = if v = 0 then Sparse.erase k s.temps else Sparse.put k v s.temps := rfl
@[simp] theorem State.setTemp_buf (s : State) (k v : Nat) : (s.setTemp k v).buf = s.buf := rfl
@[simp] theorem State.setTemp_returned (s : State) (k v : Nat) : (s.setTemp k v).returned = s.returned := rfl
@[simp] theorem State.setTemp_schedule (s : State) (k v : Nat) : (s.setTemp k v).schedule = s.schedule := rfl
@[simp] theorem State.setTemp_turns (s : State) (k v : Nat) : (s.setTemp k v).turns = s.turns := rfl
@[simp] theorem State.setTemp_draws (s : State) (k v : Nat) : (s.setTemp k v).draws = s.draws := rfl

/-! ### the pc's advance -/

@[simp] theorem State.advance_config (s : State) : s.advance.config = s.config := rfl
@[simp] theorem State.advance_cfg (s : State) : s.advance.cfg = s.cfg := rfl
@[simp] theorem State.advance_fb (s : State) : s.advance.fb = s.fb := rfl
@[simp] theorem State.advance_curHi (s : State) : s.advance.curHi = s.curHi := rfl
@[simp] theorem State.advance_curLo (s : State) : s.advance.curLo = s.curLo := rfl
@[simp] theorem State.advance_crtcIdx (s : State) : s.advance.crtcIdx = s.crtcIdx := rfl
@[simp] theorem State.advance_shift (s : State) : s.advance.shift = s.shift := rfl
@[simp] theorem State.advance_kbdBuf (s : State) : s.advance.kbdBuf = s.kbdBuf := rfl
@[simp] theorem State.advance_kbdObf (s : State) : s.advance.kbdObf = s.kbdObf := rfl
@[simp] theorem State.advance_arg (s : State) : s.advance.arg = s.arg := rfl
@[simp] theorem State.advance_res (s : State) : s.advance.res = s.res := rfl
@[simp] theorem State.advance_faults (s : State) : s.advance.faults = s.faults := rfl
@[simp] theorem State.advance_refused (s : State) : s.advance.refused = s.refused := rfl
@[simp] theorem State.advance_program (s : State) : s.advance.program = s.program := rfl
@[simp] theorem State.advance_pc (s : State) : s.advance.pc = s.pc + 1 := rfl
@[simp] theorem State.advance_temps (s : State) : s.advance.temps = s.temps := rfl
@[simp] theorem State.advance_buf (s : State) : s.advance.buf = s.buf := rfl
@[simp] theorem State.advance_returned (s : State) : s.advance.returned = s.returned := rfl
@[simp] theorem State.advance_schedule (s : State) : s.advance.schedule = s.schedule := rfl
@[simp] theorem State.advance_turns (s : State) : s.advance.turns = s.turns := rfl
@[simp] theorem State.advance_draws (s : State) : s.advance.draws = s.draws := rfl

/-! ### a turn taken -/

@[simp] theorem State.takeTurn_config (s : State) : s.takeTurn.config = s.config := rfl
@[simp] theorem State.takeTurn_cfg (s : State) : s.takeTurn.cfg = s.cfg := rfl
@[simp] theorem State.takeTurn_fb (s : State) : s.takeTurn.fb = s.fb := rfl
@[simp] theorem State.takeTurn_curHi (s : State) : s.takeTurn.curHi = s.curHi := rfl
@[simp] theorem State.takeTurn_curLo (s : State) : s.takeTurn.curLo = s.curLo := rfl
@[simp] theorem State.takeTurn_crtcIdx (s : State) : s.takeTurn.crtcIdx = s.crtcIdx := rfl
@[simp] theorem State.takeTurn_shift (s : State) : s.takeTurn.shift = s.shift := rfl
@[simp] theorem State.takeTurn_kbdBuf (s : State) : s.takeTurn.kbdBuf = s.kbdBuf := rfl
@[simp] theorem State.takeTurn_kbdObf (s : State) : s.takeTurn.kbdObf = s.kbdObf := rfl
@[simp] theorem State.takeTurn_arg (s : State) : s.takeTurn.arg = s.arg := rfl
@[simp] theorem State.takeTurn_res (s : State) : s.takeTurn.res = s.res := rfl
@[simp] theorem State.takeTurn_faults (s : State) : s.takeTurn.faults = s.faults := rfl
@[simp] theorem State.takeTurn_refused (s : State) : s.takeTurn.refused = s.refused := rfl
@[simp] theorem State.takeTurn_program (s : State) : s.takeTurn.program = s.program := rfl
@[simp] theorem State.takeTurn_pc (s : State) : s.takeTurn.pc = s.pc := rfl
@[simp] theorem State.takeTurn_temps (s : State) : s.takeTurn.temps = s.temps := rfl
@[simp] theorem State.takeTurn_buf (s : State) : s.takeTurn.buf = s.buf := rfl
@[simp] theorem State.takeTurn_returned (s : State) : s.takeTurn.returned = s.returned := rfl
@[simp] theorem State.takeTurn_schedule (s : State) : s.takeTurn.schedule = s.schedule.tail := rfl
@[simp] theorem State.takeTurn_turns (s : State) : s.takeTurn.turns = s.turns + 1 := rfl
@[simp] theorem State.takeTurn_draws (s : State) : s.takeTurn.draws = s.draws := rfl

/-! ### a fault recorded -/

@[simp] theorem State.recordFault_config (s : State) (k : FaultKind) : (s.recordFault k).config = s.config := rfl
@[simp] theorem State.recordFault_cfg (s : State) (k : FaultKind) : (s.recordFault k).cfg = s.cfg := rfl
@[simp] theorem State.recordFault_fb (s : State) (k : FaultKind) : (s.recordFault k).fb = s.fb := rfl
@[simp] theorem State.recordFault_curHi (s : State) (k : FaultKind) : (s.recordFault k).curHi = s.curHi := rfl
@[simp] theorem State.recordFault_curLo (s : State) (k : FaultKind) : (s.recordFault k).curLo = s.curLo := rfl
@[simp] theorem State.recordFault_crtcIdx (s : State) (k : FaultKind) : (s.recordFault k).crtcIdx = s.crtcIdx := rfl
@[simp] theorem State.recordFault_shift (s : State) (k : FaultKind) : (s.recordFault k).shift = s.shift := rfl
@[simp] theorem State.recordFault_kbdBuf (s : State) (k : FaultKind) : (s.recordFault k).kbdBuf = s.kbdBuf := rfl
@[simp] theorem State.recordFault_kbdObf (s : State) (k : FaultKind) : (s.recordFault k).kbdObf = s.kbdObf := rfl
@[simp] theorem State.recordFault_arg (s : State) (k : FaultKind) : (s.recordFault k).arg = s.arg := rfl
@[simp] theorem State.recordFault_res (s : State) (k : FaultKind) : (s.recordFault k).res = s.res := rfl
@[simp] theorem State.recordFault_faults (s : State) (k : FaultKind) : (s.recordFault k).faults = s.faults ++ [⟨k, s.pc⟩] := rfl
@[simp] theorem State.recordFault_refused (s : State) (k : FaultKind) : (s.recordFault k).refused = s.refused := rfl
@[simp] theorem State.recordFault_program (s : State) (k : FaultKind) : (s.recordFault k).program = s.program := rfl
@[simp] theorem State.recordFault_pc (s : State) (k : FaultKind) : (s.recordFault k).pc = s.pc := rfl
@[simp] theorem State.recordFault_temps (s : State) (k : FaultKind) : (s.recordFault k).temps = s.temps := rfl
@[simp] theorem State.recordFault_buf (s : State) (k : FaultKind) : (s.recordFault k).buf = s.buf := rfl
@[simp] theorem State.recordFault_returned (s : State) (k : FaultKind) : (s.recordFault k).returned = s.returned := rfl
@[simp] theorem State.recordFault_schedule (s : State) (k : FaultKind) : (s.recordFault k).schedule = s.schedule := rfl
@[simp] theorem State.recordFault_turns (s : State) (k : FaultKind) : (s.recordFault k).turns = s.turns := rfl
@[simp] theorem State.recordFault_draws (s : State) (k : FaultKind) : (s.recordFault k).draws = s.draws := rfl

/-- A state with a fault recorded takes no further host step (60_exceptions.md R153). -/
@[simp] theorem State.recordFault_quiescent (s : State) (k : FaultKind) : (s.recordFault k).quiescent = true := by
  simp [State.quiescent]

/-! ### the host after an access -/

/-- After an access that faulted the host stays at its statement. -/
@[simp] theorem State.recordFault_afterAccess (s : State) (k : FaultKind) : (s.recordFault k).afterAccess = s.recordFault k :=
  if_pos (s.recordFault_quiescent k)

/-- After an access that recorded nothing the pc has advanced. -/
theorem State.afterAccess_of_running {s : State} (h : s.quiescent = false) : s.afterAccess = s.advance :=
  if_neg (by simp [h])

@[simp] theorem State.receive_some (s : State) (dst n : Nat) : s.receive dst (some n) = (s.setTemp dst n).advance := rfl
@[simp] theorem State.receive_none (s : State) (dst : Nat) : s.receive dst none = s := rfl

/-- FAULTS and REFUSED decide whether a state is quiescent. -/
theorem State.quiescent_congr {s t : State} (hf : t.faults = s.faults) (hr : t.refused = s.refused) :
    t.quiescent = s.quiescent := by
  simp only [State.quiescent, hf, hr]

/-! ### a refusal recorded -/

@[simp] theorem State.recordRefusal_config (s : State) : s.recordRefusal.config = s.config := rfl
@[simp] theorem State.recordRefusal_cfg (s : State) : s.recordRefusal.cfg = s.cfg := rfl
@[simp] theorem State.recordRefusal_fb (s : State) : s.recordRefusal.fb = s.fb := rfl
@[simp] theorem State.recordRefusal_curHi (s : State) : s.recordRefusal.curHi = s.curHi := rfl
@[simp] theorem State.recordRefusal_curLo (s : State) : s.recordRefusal.curLo = s.curLo := rfl
@[simp] theorem State.recordRefusal_crtcIdx (s : State) : s.recordRefusal.crtcIdx = s.crtcIdx := rfl
@[simp] theorem State.recordRefusal_shift (s : State) : s.recordRefusal.shift = s.shift := rfl
@[simp] theorem State.recordRefusal_kbdBuf (s : State) : s.recordRefusal.kbdBuf = s.kbdBuf := rfl
@[simp] theorem State.recordRefusal_kbdObf (s : State) : s.recordRefusal.kbdObf = s.kbdObf := rfl
@[simp] theorem State.recordRefusal_arg (s : State) : s.recordRefusal.arg = s.arg := rfl
@[simp] theorem State.recordRefusal_res (s : State) : s.recordRefusal.res = s.res := rfl
@[simp] theorem State.recordRefusal_faults (s : State) : s.recordRefusal.faults = s.faults := rfl
@[simp] theorem State.recordRefusal_refused (s : State) : s.recordRefusal.refused = true := rfl
@[simp] theorem State.recordRefusal_program (s : State) : s.recordRefusal.program = s.program := rfl
@[simp] theorem State.recordRefusal_pc (s : State) : s.recordRefusal.pc = s.pc := rfl
@[simp] theorem State.recordRefusal_temps (s : State) : s.recordRefusal.temps = s.temps := rfl
@[simp] theorem State.recordRefusal_buf (s : State) : s.recordRefusal.buf = s.buf := rfl
@[simp] theorem State.recordRefusal_returned (s : State) : s.recordRefusal.returned = s.returned := rfl
@[simp] theorem State.recordRefusal_schedule (s : State) : s.recordRefusal.schedule = s.schedule := rfl
@[simp] theorem State.recordRefusal_turns (s : State) : s.recordRefusal.turns = s.turns := rfl
@[simp] theorem State.recordRefusal_draws (s : State) : s.recordRefusal.draws = s.draws := rfl

/-! ### The configuration (00_scope.md R8, 41_keyboard.md R117): every state has an admitted one -/

theorem State.cfg_valid (s : State) : s.cfg.valid = true := s.config.admitted

/-! ### Delivery (41_keyboard.md R109) -/

/-- A delivery touches KBD_BUF and KBD_OBF and nothing else. -/
theorem State.deliver_eq (s : State) (c : Byte) :
    s.deliver c = { s with kbdBuf := if s.kbdObf then s.kbdBuf else c, kbdObf := true } := by
  unfold State.deliver
  split <;> rename_i h
  · cases s; dsimp only at h; subst h; rfl
  · rfl

end Sys2Proof.Machine
end

