-- ==== Sys2Proof/Laws/Display.lean ====
section
/-!
SUPPORT. What the display unit's shared operations do: SetCur, blank cells, ScrollCore, the glyph writer, and the whole of PUTC.
-/

namespace Sys2Proof.Machine

/-! ### The cursor -/

/-- SetCur stores a 16-bit value as it is (10_state.md R20). -/
theorem State.cur_setCur (s : State) {v : Nat} (h : v < 65536) : (s.setCur v).cur = some v := by
  simp only [State.cur, State.setCur_curHi, State.setCur_curLo, BitVec.toNat_ofNat, Option.some.injEq]
  omega

@[simp] theorem State.cur_scrollCore (s : State) : s.scrollCore.cur = some 1920 := rfl

/-- CUR is a 16-bit number (10_state.md R20). -/
theorem State.cur_lt {s : State} {c : Nat} (h : s.cur = some c) : c < 65536 := by
  unfold State.cur at h
  split at h
  · rename_i hi lo _ _
    have := hi.isLt
    have := lo.isLt
    cases h; omega
  · cases h

@[simp] theorem State.fbByte_setCur (s : State) (v o : Nat) : (s.setCur v).fbByte o = s.fbByte o := rfl
@[simp] theorem State.cur_setCellAt (s : State) (o : Nat) (ch a : Byte) : (s.setCellAt o ch a).cur = s.cur := rfl

/-! ### Blank cells -/

theorem get_blankCells (attr : Byte) (n o k : Nat) :
    Sparse.get (blankCells attr o n) k =
      if o ≤ k ∧ k < o + 2 * n then some (if (k - o) % 2 = 0 then chNUL else attr) else none := by
  induction n generalizing o with
  | zero => rw [if_neg (by omega)]; rfl
  | succ n ih =>
    simp only [blankCells, Sparse.get, ih]
    by_cases h0 : o = k
    · subst h0; simp
    · by_cases h1 : o + 1 = k
      · subst h1
        rw [if_neg h0, if_pos rfl, if_pos (by omega), if_neg (by omega)]
      · rw [if_neg h0, if_neg h1]
        by_cases h2 : o + 2 ≤ k ∧ k < o + 2 + 2 * n
        · rw [if_pos h2, if_pos (show o ≤ k ∧ k < o + 2 * (n + 1) by omega), show (k - o) % 2 = (k - (o + 2)) % 2 by omega]
        · rw [if_neg h2, if_neg (by omega)]

theorem rising_blankCells (attr : Byte) (n o : Nat) : Sparse.rising o (blankCells attr o n) = true := by
  induction n generalizing o with
  | zero => rfl
  | succ n ih => simp [blankCells, Sparse.rising, ih]

theorem key_lt_of_mem_blankCells {attr : Byte} {n o : Nat} {e : Host.Cell} (h : e ∈ blankCells attr o n) :
    o ≤ e.1 ∧ e.1 < o + 2 * n := by
  induction n generalizing o with
  | zero => cases h
  | succ n ih =>
    simp only [blankCells, List.mem_cons] at h
    rcases h with rfl | rfl | h
    · dsimp; omega
    · dsimp; omega
    · have := ih h; omega

/-! ### ScrollCore (40_display.md R81) -/

theorem get_shifted (m : List Host.Cell) (k : Nat) :
    Sparse.get ((m.filter (fun c => decide (rowBytes ≤ c.1) && decide (c.1 < fbSize))).map
      (fun c => (c.1 - rowBytes, c.2))) k = if k < lastRowOff then Sparse.get m (k + rowBytes) else none := by
  simp only [rowBytes_eq, fbSize_eq, lastRowOff_eq]
  induction m with
  | nil => simp [Sparse.get]
  | cons c r ih =>
    obtain ⟨j, b⟩ := c
    simp only [List.filter_cons]
    by_cases hj : 160 ≤ j ∧ j < 4000
    · rw [if_pos (by simp [hj.1, hj.2])]
      simp only [List.map_cons, Sparse.get, ih]
      by_cases hk : j = k + 160
      · subst hk; rw [if_pos (by omega), if_pos (by omega), if_pos rfl]
      · rw [if_neg (by omega), if_neg hk]
    · rw [if_neg (by simp; omega), ih]
      simp only [Sparse.get]
      by_cases hk : k < 3840
      · rw [if_pos hk, if_pos hk, if_neg (by omega)]
      · rw [if_neg hk, if_neg hk]

/-- ScrollCore's framebuffer, byte by byte: rows move up, the last row is blank (R81, "Equivalently"). -/
theorem read_scrolledRows (attr : Byte) (m : List Host.Cell) (o : Nat) :
    Memory.read (scrolledRows attr m) o =
      if o < lastRowOff then Memory.read m (o + rowBytes)
      else if o < fbSize then .val (if o % 2 = 0 then chNUL else attr)
      else .bot := by
  unfold Memory.read scrolledRows
  rw [Sparse.get_append, get_shifted, get_blankCells]
  simp only [rowBytes_eq, fbSize_eq, lastRowOff_eq, cols_eq]
  by_cases h : o < 3840
  · rw [if_pos h, if_pos h, if_neg (by omega), Option.or_none]
  · rw [if_neg h, if_neg h, Option.none_or]
    by_cases h2 : o < 4000
    · rw [if_pos h2, if_pos (by omega)]
      simp only [show (o - 3840) % 2 = o % 2 by omega]
    · rw [if_neg h2, if_neg (by omega)]

theorem State.fbByte_scrollCore (s : State) (o : Nat) :
    s.scrollCore.fbByte o =
      if o < lastRowOff then s.fbByte (o + rowBytes)
      else if o < fbSize then .val (if o % 2 = 0 then chNUL else s.cfg.defaultAttr)
      else .bot := by
  unfold State.fbByte
  rw [State.scrollCore_fb, read_scrolledRows]
  simp only [rowBytes_eq, fbSize_eq, lastRowOff_eq]
  by_cases h : o < 3840
  · rw [if_pos (by omega), if_pos h, if_pos h, if_pos (by omega)]
  · by_cases h2 : o < 4000
    · simp [h, h2]
    · simp [h, h2]

theorem rising_shifted {lo : Nat} {m : List Host.Cell} (h : Sparse.rising lo m = true) :
    Sparse.rising (lo - rowBytes) ((m.filter (fun c => decide (rowBytes ≤ c.1) && decide (c.1 < fbSize))).map
      (fun c => (c.1 - rowBytes, c.2))) = true := by
  induction m generalizing lo with
  | nil => rfl
  | cons c r ih =>
    simp only [Sparse.rising, Bool.and_eq_true, decide_eq_true_eq] at h
    simp only [List.filter_cons]
    have hr := ih h.2
    split
    · rename_i hc
      simp only [Bool.and_eq_true, decide_eq_true_eq] at hc
      simp only [List.map_cons, Sparse.rising, Bool.and_eq_true, decide_eq_true_eq]
      exact ⟨by omega, Sparse.rising_mono hr (by omega)⟩
    · exact Sparse.rising_mono hr (by omega)

theorem rising_append {β : Type} {lo mid : Nat} {l r : List (Nat × β)} (hl : Sparse.rising lo l = true)
    (hr : Sparse.rising mid r = true) (hlo : lo ≤ mid) (h : ∀ e ∈ l, e.1 < mid) : Sparse.rising lo (l ++ r) = true := by
  induction l generalizing lo with
  | nil => exact Sparse.rising_mono hr hlo
  | cons c t ih =>
    simp only [Sparse.rising, Bool.and_eq_true, decide_eq_true_eq, List.cons_append] at hl ⊢
    have hc := h c (List.mem_cons_self ..)
    exact ⟨hl.1, ih hl.2 (by omega) fun e he => h e (List.mem_cons_of_mem _ he)⟩

theorem Memory.wf_scrolledRows {m : List Host.Cell} (attr : Byte) (h : Memory.wf m = true) :
    Memory.wf (scrolledRows attr m) = true := by
  have hkeys : ∀ e ∈ (m.filter (fun c => decide (rowBytes ≤ c.1) && decide (c.1 < fbSize))).map
      (fun c => (c.1 - rowBytes, c.2)), e.1 < lastRowOff := by
    intro e he
    simp only [List.mem_map, List.mem_filter, Bool.and_eq_true, decide_eq_true_eq] at he
    obtain ⟨c, ⟨_, h1, h2⟩, rfl⟩ := he
    simp only [rowBytes_eq, fbSize_eq, lastRowOff_eq] at h1 h2 ⊢
    omega
  simp only [Memory.wf, Bool.and_eq_true, List.all_eq_true, decide_eq_true_eq] at h ⊢
  refine ⟨rising_append (Sparse.rising_mono (rising_shifted h.1) (Nat.zero_le _)) (rising_blankCells ..) (Nat.zero_le _) hkeys,
    fun e he => ?_⟩
  rcases List.mem_append.mp he with he | he
  · exact Nat.lt_trans (hkeys e he) (by decide)
  · have := key_lt_of_mem_blankCells he
    simp only [lastRowOff_eq, cols_eq, fbSize_eq] at this ⊢
    omega

theorem Memory.wf_blankScreen (attr : Byte) : Memory.wf (blankCells attr 0 numCells) = true := by
  simp only [Memory.wf, Bool.and_eq_true, List.all_eq_true, decide_eq_true_eq]
  refine ⟨rising_blankCells .., fun e he => ?_⟩
  have := key_lt_of_mem_blankCells he
  simp only [numCells_eq, fbSize_eq] at this ⊢
  omega

/-! ### The loops of R81 -/

/-- A loop over 0..n-1 keeps what its body carries from k to k + 1. -/
theorem foldl_range_induct {α : Type} (f : α → Nat → α) (n : Nat) (P : Nat → α → Prop) (a : α) (h0 : P 0 a)
    (hs : ∀ k x, k < n → P k x → P (k + 1) (f x k)) : P n ((List.range n).foldl f a) := by
  induction n with
  | zero => exact h0
  | succ n ih =>
    rw [List.range_succ, List.foldl_append]
    exact hs n _ (by omega) (ih fun k x hk => hs k x (by omega))

/-- The inner loop copies row r into row r - 1, byte by byte, and leaves every other byte. -/
theorem copyRowUp_spec {m : List Host.Cell} {r : Nat} (hr : 1 ≤ r) (hr' : r < 25) (hw : Memory.wf m = true) :
    Memory.wf (copyRowUp m r) = true ∧ ∀ o, Memory.read (copyRowUp m r) o =
      if (r - 1) * 160 ≤ o ∧ o < (r - 1) * 160 + 160 then Memory.read m (o + 160) else Memory.read m o := by
  unfold copyRowUp
  simp only [rowBytes_eq]
  apply foldl_range_induct _ 160 (fun n x => Memory.wf x = true ∧ ∀ o, Memory.read x o =
    if (r - 1) * 160 ≤ o ∧ o < (r - 1) * 160 + n then Memory.read m (o + 160) else Memory.read m o)
  · exact ⟨hw, fun o => by rw [if_neg (by omega)]⟩
  · rintro k x hk ⟨hx, hread⟩
    unfold copyByte
    refine ⟨Memory.wf_copyTo _ hx (by simp only [fbSize_eq]; omega), fun o => ?_⟩
    rw [Memory.read_copyTo, hread, hread]
    obtain ⟨q, rfl⟩ : ∃ q, r = q + 1 := ⟨r - 1, by omega⟩
    simp only [Nat.add_sub_cancel]
    by_cases h : o = q * 160 + k
    · subst h
      rw [if_pos rfl, if_neg (by omega), if_pos (by omega)]; congr 1; omega
    · rw [if_neg h]
      by_cases h2 : q * 160 ≤ o ∧ o < q * 160 + k
      · rw [if_pos h2, if_pos (by omega)]
      · rw [if_neg h2, if_neg (by omega)]

/-- The last loop makes every cell of the last row blank and leaves every other byte. -/
theorem blankLastRow_spec (attr : Byte) {m : List Host.Cell} (hw : Memory.wf m = true) :
    Memory.wf (blankLastRow attr m) = true ∧ ∀ o, Memory.read (blankLastRow attr m) o =
      if 3840 ≤ o ∧ o < 4000 then .val (if o % 2 = 0 then chNUL else attr) else Memory.read m o := by
  unfold blankLastRow
  simp only [cols_eq, lastRowOff_eq]
  apply foldl_range_induct _ 80 (fun n x => Memory.wf x = true ∧ ∀ o, Memory.read x o =
    if 3840 ≤ o ∧ o < 3840 + 2 * n then .val (if o % 2 = 0 then chNUL else attr) else Memory.read m o)
  · exact ⟨hw, fun o => by rw [if_neg (by omega)]⟩
  · rintro k x hk ⟨hx, hread⟩
    refine ⟨Memory.wf_write _ (Memory.wf_write _ hx (by simp only [fbSize_eq]; omega)) (by simp only [fbSize_eq]; omega),
      fun o => ?_⟩
    rw [Memory.read_write, Memory.read_write, hread]
    by_cases ha : o = 3840 + 2 * k + 1
    · rw [if_pos ha, if_pos (by omega), if_neg (by omega)]
    · rw [if_neg ha]
      by_cases hb : o = 3840 + 2 * k
      · rw [if_pos hb, if_pos (by omega), if_pos (by omega)]
      · rw [if_neg hb]
        by_cases hc : 3840 ≤ o ∧ o < 3840 + 2 * k
        · rw [if_pos hc, if_pos (show 3840 ≤ o ∧ o < 3840 + 2 * (k + 1) by omega)]
        · rw [if_neg hc, if_neg (by omega)]

/-! ### The commands -/

/-- All that PUTC can do: one of its five completions, or the record of one of its two faults (40_display.md R82 to R85). -/
theorem execPutc_cases (attr sym : Byte) (s : State) :
    (s.cur = none ∧ execPutc attr sym s = .next (s.recordFault .uninitCursor)) ∨
    (∃ c, s.cur = some c ∧
      ((sym = chNL ∧ c < 1920 ∧ execPutc attr sym s = .next (s.setCur ((c / 80 + 1) * 80))) ∨
       (sym = chNL ∧ 1920 ≤ c ∧ execPutc attr sym s = .next s.scrollCore) ∨
       (sym = chBS ∧ c = 0 ∧ execPutc attr sym s = .next s) ∨
       (sym = chBS ∧ 1 ≤ c ∧ c ≤ 2000 ∧
         execPutc attr sym s = .next ((s.setCur (c - 1)).setCellAt (2 * c - 2) chSP attr)) ∨
       (sym = chBS ∧ 2000 < c ∧ execPutc attr sym s = .next (s.recordFault (.surfaceRange (2 * c - 2)))) ∨
       (sym ≠ chNL ∧ sym ≠ chBS ∧ c < 2000 ∧ execPutc attr sym s = .next (s.writeGlyph (2 * c) sym attr)) ∨
       (sym ≠ chNL ∧ sym ≠ chBS ∧ 2000 ≤ c ∧ execPutc attr sym s = .next (s.scrollCore.writeGlyph 3840 sym attr)))) := by
  unfold execPutc
  cases hc : s.cur with
  | none => exact .inl ⟨rfl, rfl⟩
  | some c =>
    refine .inr ⟨c, rfl, ?_⟩
    simp only
    by_cases hnl : sym = chNL
    · rw [if_pos hnl]
      unfold State.putNewline rowOf
      simp only [lastRowOff_eq, rowBytes_eq, cols_eq, cellBytes_eq]
      by_cases h : c < 1920
      · refine .inl ⟨hnl, h, ?_⟩
        rw [if_neg (by omega), show 2 * c / 160 = c / 80 by omega]
      · exact .inr (.inl ⟨hnl, by omega, by rw [if_pos (by omega)]⟩)
    · rw [if_neg hnl]
      refine .inr (.inr ?_)
      by_cases hbs : sym = chBS
      · rw [if_pos hbs]
        unfold State.putBackspace cellOf
        simp only [fbSize_eq, cellBytes_eq]
        by_cases h0 : c = 0
        · exact .inl ⟨hbs, h0, by rw [if_pos (by omega)]⟩
        · rw [if_neg (by omega)]
          by_cases h1 : c ≤ 2000
          · refine .inr (.inl ⟨hbs, by omega, h1, ?_⟩)
            rw [if_neg (by omega), show (2 * c - 2) / 2 = c - 1 by omega]
          · exact .inr (.inr (.inl ⟨hbs, by omega, by rw [if_pos (by omega)]⟩))
      · rw [if_neg hbs]
        unfold State.putGlyph
        simp only [fbSize_eq, cellBytes_eq]
        by_cases h : c < 2000
        · exact .inr (.inr (.inr (.inl ⟨hnl, hbs, h, by rw [if_neg (by omega)]⟩)))
        · exact .inr (.inr (.inr (.inr ⟨hnl, hbs, by omega, by rw [if_pos (by omega)]; rfl⟩)))

end Sys2Proof.Machine
end

