-- ==== Sys2Proof/Laws/Keyboard.lean ====
section
/-!
SUPPORT. The bit-level helpers of the keyboard unit as numbers: release flag, base code, RES word, status byte.
-/

namespace Sys2Proof.Machine

/-- s[7] says whether the scan code is 128 or more (41_keyboard.md R108). -/
theorem isRelease_eq (s : Byte) : isRelease s = decide (128 ≤ s.toNat) := by
  revert s; decide +kernel

/-- s & 0x7F is the scan code modulo 128 (R110). -/
theorem toNat_baseCode (s : Byte) : (baseCode s).toNat = s.toNat % 128 := by
  revert s; decide +kernel

/-- A press is its own base code (R110, R113). -/
theorem baseCode_of_press {s : Byte} (h : s.toNat < 128) : baseCode s = s := by
  apply BitVec.eq_of_toNat_eq
  rw [toNat_baseCode]; omega

/-- The base code of a shift code is one of the two (R111). -/
theorem isShiftCode_iff (c : Config) (b : Byte) : isShiftCode c b = true ↔ b = shiftCodeA ∨ b = c.shiftCodeB := by
  simp [isShiftCode]

@[simp] theorem resultWord_none : resultWord none = 0x0000 := rfl

/-- RES with a character r is 0x0100 + r (R118). -/
theorem toNat_resultWord_some (r : Byte) : (resultWord (some r)).toNat = 256 + r.toNat := by
  revert r; decide +kernel

@[simp] theorem resHas_resultWord_some (r : Byte) : resHas (resultWord (some r)) = true := by
  revert r; decide +kernel

@[simp] theorem resChar_resultWord_some (r : Byte) : resChar (resultWord (some r)) = r := by
  revert r; decide +kernel

/-- The status byte's bit 0 is KBD_OBF and its other bits are the draw's (R106). -/
theorem toNat_statusByte (d : Byte) (obf : Bool) : (statusByte d obf).toNat = d.toNat / 2 * 2 + (if obf then 1 else 0) := by
  revert d obf; decide +kernel

end Sys2Proof.Machine
end

