-- ==== Sys2Proof/Laws/Dispatch.lean ====
section
/-!
SUPPORT. What any command may write, said once for all of them, and that each keeps the canonical framebuffer.
-/

namespace Sys2Proof.Machine

theorem onlyDisplayChanged_refl (s : State) : onlyDisplayChanged s s := rfl

theorem onlyDisplayChanged_setCur (s : State) (v : Nat) : onlyDisplayChanged s (s.setCur v) := rfl

theorem onlyDisplayChanged_scrollCore (s : State) : onlyDisplayChanged s s.scrollCore := rfl

theorem onlyDisplayChanged_setCellAt (s : State) (o : Nat) (ch a : Byte) : onlyDisplayChanged s (s.setCellAt o ch a) := rfl

theorem onlyDisplayChanged_trans {s t u : State} (h : onlyDisplayChanged s t) (h' : onlyDisplayChanged t u) :
    onlyDisplayChanged s u := by
  unfold onlyDisplayChanged at h h' ⊢
  rw [h', h]

/-- PUTC writes FB and the cursor at most, or records the fault it raises (40_display.md R82, R85). -/
theorem execPutc_frame {attr sym : Byte} {s t : State} (h : execPutc attr sym s = .next t) :
    onlyDisplayChanged s t ∨ (s.cur = none ∧ t = s.recordFault .uninitCursor) ∨
    (∃ c, s.cur = some c ∧ sym = chBS ∧ 2000 < c ∧ t = s.recordFault (.surfaceRange (2 * c - 2))) := by
  rcases execPutc_cases attr sym s with ⟨hn, he⟩ | ⟨c, hc, ⟨_, _, he⟩ | ⟨_, _, he⟩ | ⟨_, _, he⟩ | ⟨_, _, _, he⟩ | ⟨hb, hr, he⟩ |
    ⟨_, _, _, he⟩ | ⟨_, _, _, he⟩⟩ <;> rw [he] at h <;> cases h
  · exact .inr (.inl ⟨hn, rfl⟩)
  · exact .inl rfl
  · exact .inl rfl
  · exact .inl rfl
  · exact .inl rfl
  · exact .inr (.inr ⟨c, hc, hb, hr, rfl⟩)
  · exact .inl rfl
  · exact .inl rfl

/-- All that a command may write: FB and the cursor (PUTC, CLEAR, SCROLL), SHIFT and RES (TRANSLATE), or one of the two faults of
PUTC. -/
theorem exec_frame {i : Instr} {s t : State} (h : exec i s = .next t) :
    (isDisplayCommand i = true ∧ onlyDisplayChanged s t) ∨ (∃ k, i = .translate k ∧ onlyTranslatorChanged s t) ∨
    (∃ a y, i = .putc a y ∧ s.cur = none ∧ t = s.recordFault .uninitCursor) ∨
    (∃ a c, i = .putc a chBS ∧ s.cur = some c ∧ 2000 < c ∧ t = s.recordFault (.surfaceRange (2 * c - 2))) := by
  cases i with
  | putc a y =>
    rcases execPutc_frame h with hd | ⟨hn, ht⟩ | ⟨c, hc, rfl, hr, ht⟩
    · exact .inl ⟨rfl, hd⟩
    · exact .inr (.inr (.inl ⟨a, y, rfl, hn, ht⟩))
    · exact .inr (.inr (.inr ⟨a, c, rfl, hc, hr, ht⟩))
  | clear => cases h; exact .inl ⟨rfl, rfl⟩
  | scroll => cases h; exact .inl ⟨rfl, rfl⟩
  | translate k => cases h; exact .inr (.inl ⟨k, rfl, rfl⟩)

theorem execPutc_keeps_wf {attr sym : Byte} {s t : State} (hw : Memory.wf s.fb = true) (h : execPutc attr sym s = .next t) :
    Memory.wf t.fb = true := by
  rcases execPutc_cases attr sym s with ⟨_, he⟩ | ⟨c, _, hc⟩
  · rw [he] at h; cases h; exact hw
  · rcases hc with ⟨_, _, he⟩ | ⟨_, _, he⟩ | ⟨_, _, he⟩ | ⟨_, _, _, he⟩ | ⟨_, _, he⟩ | ⟨_, _, _, he⟩ | ⟨_, _, _, he⟩ <;>
      rw [he] at h <;> cases h
    · exact hw
    · exact Memory.wf_scrolledRows _ hw
    · exact hw
    · exact Memory.wf_write _ (Memory.wf_write _ hw (by simp only [fbSize_eq]; omega)) (by simp only [fbSize_eq]; omega)
    · exact hw
    · exact Memory.wf_write _ (Memory.wf_write _ hw (by simp only [fbSize_eq]; omega)) (by simp only [fbSize_eq]; omega)
    · exact Memory.wf_write _ (Memory.wf_write _ (Memory.wf_scrolledRows _ hw) (by decide)) (by decide)

/-- Every command keeps the framebuffer's canonical form. -/
theorem exec_keeps_wf {i : Instr} {s t : State} (hw : Memory.wf s.fb = true) (h : exec i s = .next t) :
    Memory.wf t.fb = true := by
  cases i with
  | putc a y => exact execPutc_keeps_wf hw h
  | clear => cases h; exact Memory.wf_blankScreen _
  | scroll => cases h; exact Memory.wf_scrolledRows _ hw
  | translate k => cases h; exact hw

end Sys2Proof.Machine
end

