-- ==== Sys2Proof/Laws/Operands.lean ====
section
/-!
SUPPORT. The value a store is given, where it fits.
-/

namespace Sys2Proof.Machine

theorem exactByte_of_lt {v : Nat} (h : v < 256) : exactByte v = BitVec.ofNat 8 v := if_pos h

theorem exactWord_of_lt {v : Nat} (h : v < 65536) : exactWord v = BitVec.ofNat 16 v := if_pos h

@[simp] theorem exactByte_toNat (b : Byte) : exactByte b.toNat = b := by
  rw [exactByte_of_lt b.isLt]; simp

@[simp] theorem exactWord_toNat (x : Word) : exactWord x.toNat = x := by
  rw [exactWord_of_lt x.isLt]; simp

end Sys2Proof.Machine
end

