-- ==== Sys2Proof/Laws/Bus.lean ====
section
/-!
SUPPORT. What each kind of host access can do, said once: "if it answers a next state, then one of these cases holds".
-/

namespace Sys2Proof.Machine

/-- An outcome continued to a next state began with one. -/
theorem andThen_eq_next {σ τ : Type} {o : Host.Outcome σ Fault Refusal} {k : σ → Host.Outcome τ Fault Refusal} {t : τ}
    (h : andThen o k = .next t) : ∃ s, o = .next s ∧ k s = .next t := by
  cases o with
  | next s => exact ⟨s, rfl, h⟩
  | fault f => exact nomatch f
  | refused r => cases h

@[simp] theorem andThen_next {σ τ : Type} (s : σ) (k : σ → Host.Outcome τ Fault Refusal) : andThen (.next s) k = k s := rfl
@[simp] theorem andThen_refused {σ τ : Type} (r : Refusal) (k : σ → Host.Outcome τ Fault Refusal) :
    andThen (.refused r) k = .refused r := rfl

/-- A CMD write that answers a next state performed a decoded command (30_encoding.md R64). -/
theorem issueCommand_eq_next {op : Byte} {s t : State} (h : issueCommand op s = .next t) :
    ∃ i, decode (commandWord op s.arg) = .ok i ∧ exec i s = .next t := by
  unfold issueCommand at h
  split at h
  · rename_i i hi; exact ⟨i, hi, h⟩
  · cases h

/-! The admitted port writes, one by one. -/

theorem writePort_crtcIndex (v : Nat) (s : State) :
    writePort .crtcIndex .byte v s = .next { s with crtcIdx := .val (exactByte v) } := rfl
theorem writePort_crtcData (v : Nat) (s : State) : writePort .crtcData .byte v s = writeCursorData (exactByte v) s := rfl
theorem writePort_cmd (v : Nat) (s : State) : writePort .cmd .byte v s = issueCommand (exactByte v) s := rfl
theorem writePort_arg (v : Nat) (s : State) : writePort .arg .word v s = .next { s with arg := exactWord v } := rfl

/-- All that a port write can do (30_encoding.md R60); the fourth case is the fault of a data-port write under the index ⊥. -/
theorem writePort_cases {p : Port} {w : Width} {v : Nat} {s t : State} (h : writePort p w v s = .next t) :
    (p = .crtcIndex ∧ w = .byte ∧ t = { s with crtcIdx := .val (exactByte v) }) ∨
    (p = .crtcData ∧ w = .byte ∧ s.crtcIdx = .val curHiIndex ∧ t = { s with curHi := .val (exactByte v) }) ∨
    (p = .crtcData ∧ w = .byte ∧ s.crtcIdx = .val curLoIndex ∧ t = { s with curLo := .val (exactByte v) }) ∨
    (p = .crtcData ∧ w = .byte ∧ s.crtcIdx = .bot ∧ t = s.recordFault .uninitIndex) ∨
    (p = .cmd ∧ w = .byte ∧ ∃ i, decode (commandWord (exactByte v) s.arg) = .ok i ∧ exec i s = .next t) ∨
    (p = .arg ∧ w = .word ∧ t = { s with arg := exactWord v }) := by
  cases p <;> cases w <;> try (first | (simp only [writePort, portRefusal, Port.width, Port.admits] at h; cases h; done))
  · cases h; exact .inl ⟨rfl, rfl, rfl⟩
  · change writeCursorData (exactByte v) s = .next t at h
    unfold writeCursorData at h
    split at h
    · rename_i hb; cases h; exact .inr (.inr (.inr (.inl ⟨rfl, rfl, hb, rfl⟩)))
    · rename_i i hi
      split at h
      · rename_i e; subst e; cases h; exact .inr (.inl ⟨rfl, rfl, hi, rfl⟩)
      · split at h
        · rename_i e; subst e; cases h; exact .inr (.inr (.inl ⟨rfl, rfl, hi, rfl⟩))
        · cases h
  · exact .inr (.inr (.inr (.inr (.inl ⟨rfl, rfl, issueCommand_eq_next h⟩))))
  · cases h; exact .inr (.inr (.inr (.inr (.inr ⟨rfl, rfl, rfl⟩))))

/-- A read of a byte that may hold ⊥ returns its value and leaves the state, or records UNINIT_READ. -/
theorem readMByte_cases {x : MByte} {l : Location} {s t : State} {v : Option Nat} (h : readMByte x l s = .next (v, t)) :
    (∃ b : Byte, x = .val b ∧ v = some b.toNat ∧ t = s) ∨ (x = .bot ∧ v = none ∧ t = s.recordFault (.uninitRead l)) := by
  cases x with
  | bot => cases h; exact .inr ⟨rfl, rfl, rfl⟩
  | val b => cases h; exact .inl ⟨b, rfl, rfl, rfl⟩

/-- All that a read of the cursor data port can do (40_display.md R89). -/
theorem readCursorData_cases {s t : State} {v : Option Nat} (h : readCursorData s = .next (v, t)) :
    (∃ n, v = some n ∧ (t = s ∨ t = s.afterDraw)) ∨ (v = none ∧ ∃ k, portReadFaults s .crtcData k ∧ t = s.recordFault k) := by
  unfold readCursorData at h
  split at h
  · rename_i hi; cases h; exact .inr ⟨rfl, _, .inr (.inl ⟨rfl, hi, rfl⟩), rfl⟩
  · rename_i i hi
    split at h
    · rename_i e; subst e
      rcases readMByte_cases h with ⟨b, _, rfl, rfl⟩ | ⟨hx, rfl, rfl⟩
      · exact .inl ⟨_, rfl, .inl rfl⟩
      · exact .inr ⟨rfl, _, .inr (.inr (.inl ⟨rfl, hi, hx, rfl⟩)), rfl⟩
    · split at h
      · rename_i e; subst e
        rcases readMByte_cases h with ⟨b, _, rfl, rfl⟩ | ⟨hx, rfl, rfl⟩
        · exact .inl ⟨_, rfl, .inl rfl⟩
        · exact .inr ⟨rfl, _, .inr (.inr (.inr ⟨rfl, hi, hx, rfl⟩)), rfl⟩
      · cases h; exact .inl ⟨_, rfl, .inr rfl⟩

/-- All that a port read can do (30_encoding.md R60, 20_memory.md R47): it returns a value, or it records a fault. -/
theorem readPort_cases {p : Port} {w : Width} {v : Option Nat} {s t : State} (h : readPort p w s = .next (v, t)) :
    (∃ n, v = some n ∧
      (t = s ∨ t = s.afterDraw ∨ (p = .kbdData ∧ w = .byte ∧ s.kbdObf = true ∧ t = { s with kbdObf := false }))) ∨
    (v = none ∧ w = .byte ∧ ∃ k, portReadFaults s p k ∧ t = s.recordFault k) := by
  cases p <;> cases w <;> try (first | (simp only [readPort, portRefusal, Port.width, Port.admits] at h; cases h; done))
  · change readMByte s.crtcIdx .crtcIdx s = .next (v, t) at h
    rcases readMByte_cases h with ⟨b, _, rfl, rfl⟩ | ⟨hx, rfl, rfl⟩
    · exact .inl ⟨_, rfl, .inl rfl⟩
    · exact .inr ⟨rfl, rfl, _, .inl ⟨rfl, hx, rfl⟩, rfl⟩
  · change readCursorData s = .next (v, t) at h
    rcases readCursorData_cases h with ⟨n, rfl, ht⟩ | ⟨rfl, hk⟩
    · exact .inl ⟨n, rfl, ht.imp_right .inl⟩
    · exact .inr ⟨rfl, rfl, hk⟩
  · cases h; exact .inl ⟨_, rfl, .inr (.inl rfl)⟩
  · change readKbdData s = .next (v, t) at h
    unfold readKbdData at h
    split at h
    · rename_i ho; cases h; exact .inl ⟨_, rfl, .inr (.inr ⟨rfl, rfl, ho, rfl⟩)⟩
    · cases h; exact .inl ⟨_, rfl, .inr (.inl rfl)⟩
  · cases h; exact .inl ⟨_, rfl, .inl rfl⟩
  · cases h; exact .inl ⟨_, rfl, .inl rfl⟩

/-- An admitted window access reaches an offset of the surface, and its last byte too (20_memory.md R42, R46). -/
theorem windowOffset_eq_next {s : State} {a n o : Nat} (h : windowOffset s a n = .next o) :
    a = s.cfg.fbBase + o ∧ o < fbSize ∧ o + n ≤ fbSize ∧ (n = 2 → o % 2 = 0) := by
  unfold windowOffset at h
  split at h
  · rename_i hin
    unfold windowRefusal at h
    split at h
    · rename_i hr
      cases h
      split at hr
      · cases hr
      · split at hr
        · cases hr
        · rename_i h1 h2
          refine ⟨by omega, by omega, by omega, fun hn => ?_⟩
          by_contra ho
          exact h1 ⟨hn, ho⟩
    · cases h
  · cases h

/-- An access of one byte inside the window is admitted; one of two bytes exactly at an even offset (20_memory.md R42, R46). -/
theorem windowOffset_base {s : State} {o : Nat} (n : Nat) (ho : o < 4000) :
    windowOffset s (s.cfg.fbBase + o) n =
      if n = 2 ∧ o % 2 ≠ 0 then .refused .misaligned else if 4000 < o + n then .refused .windowOverrun else .next o := by
  unfold windowOffset windowRefusal
  simp only [fbSize_eq, Nat.add_sub_cancel_left]
  rw [if_pos (by omega)]
  split <;> rename_i h <;> split at h <;> rename_i h1
  · cases h
  · split at h <;> rename_i h2
    · cases h
    · rw [if_neg h1, if_neg h2]
  · cases h; rw [if_pos h1]
  · split at h <;> rename_i h2
    · cases h; rw [if_neg h1, if_pos h2]
    · cases h

/-- All that a window write can do (20_memory.md R44). -/
theorem writeMem_cases {a : Nat} {w : Width} {v : Nat} {s t : State} (h : writeMem a w v s = .next t) :
    ∃ o, o + w.bytes ≤ fbSize ∧
      ((w = .byte ∧ t = s.setFbByte o (byteOf v)) ∨ (w = .word ∧ t = s.setCellAt o (byteOf v) (upperByteOf v))) := by
  obtain ⟨o, ho, hk⟩ := andThen_eq_next h
  obtain ⟨-, -, h2, -⟩ := windowOffset_eq_next ho
  refine ⟨o, h2, ?_⟩
  cases w <;> cases hk
  · exact .inl ⟨rfl, rfl⟩
  · exact .inr ⟨rfl, rfl⟩

/-- All that a window read can do (20_memory.md R43): it returns a value and leaves the state, or it records UNINIT_READ with the
location of the ⊥ byte it names (log entry 16). -/
theorem readMem_cases {a : Nat} {w : Width} {v : Option Nat} {s t : State} (h : readMem a w s = .next (v, t)) :
    (∃ n, v = some n ∧ t = s) ∨
    (v = none ∧ ∃ o, o < fbSize ∧ s.fbByte o = .bot ∧ t = s.recordFault (.uninitRead (.fb o)) ∧
      ((a = s.cfg.fbBase + o ∧ (w = .word → o % 2 = 0)) ∨
        (a + 1 = s.cfg.fbBase + o ∧ w = .word ∧ o % 2 = 1 ∧ s.fbByte (o - 1) ≠ .bot))) := by
  obtain ⟨o, ho, hk⟩ := andThen_eq_next h
  obtain ⟨rfl, hlt, hfit, hev⟩ := windowOffset_eq_next ho
  cases w with
  | byte =>
    rcases readMByte_cases hk with ⟨b, _, rfl, rfl⟩ | ⟨hx, rfl, rfl⟩
    · exact .inl ⟨_, rfl, rfl⟩
    · exact .inr ⟨rfl, o, hlt, hx, rfl, .inl ⟨rfl, nofun⟩⟩
  | word =>
    have he : o % 2 = 0 := hev rfl
    change readFbWord o s = .next (v, t) at hk
    unfold readFbWord at hk
    split at hk
    · cases hk; exact .inl ⟨_, rfl, rfl⟩
    · rename_i b hlo hhi
      cases hk
      refine .inr ⟨rfl, o + 1, hfit, hhi, rfl, .inr ⟨by omega, rfl, by omega, ?_⟩⟩
      rw [Nat.add_sub_cancel, hlo]; nofun
    · rename_i hlo
      cases hk; exact .inr ⟨rfl, o, hlt, hlo, rfl, .inl ⟨rfl, fun _ => he⟩⟩

end Sys2Proof.Machine
end

