-- ==== Sys2Proof/Laws/PerInstr.lean ====
section
/-!
SUPPORT. The per-instruction family TableRow: the encoding of every command has the fixed bits of its row of
spec/opcode_table.json (match and mask).
-/

namespace Sys2Proof

/-- The row's match (spec/opcode_table.json). -/
def Laws.TableRow.matchBits : Instr → CommandWord
  | .putc _ _ => 0x010000
  | .clear => 0x020000
  | .scroll => 0x030000
  | .translate _ => 0x040000

/-- The encoding of `i` under the row's mask 0xFF0000 is the row's match. -/
def Laws.TableRow.Statement (i : Instr) : Prop := encode i &&& 0xFF0000 = Laws.TableRow.matchBits i

/-- A command word keeps its opcode alone under the mask. -/
theorem commandWord_and_mask (op : Byte) (arg : Word) : commandWord op arg &&& 0xFF0000 = commandWord op 0 := by
  apply BitVec.eq_of_getLsbD_eq
  intro i hi
  simp only [commandWord, BitVec.getLsbD_and, BitVec.getLsbD_append]
  have hm : ∀ j, j < 24 → (0xFF0000 : CommandWord).getLsbD j = decide (16 ≤ j) := by decide
  rw [hm i hi]
  by_cases h : i < 16
  · simp [h, show ¬ 16 ≤ i by omega]
  · simp [h, show 16 ≤ i by omega]

theorem Laws.TableRow.putc (attr sym : Byte) : Laws.TableRow.Statement (.putc attr sym) :=
  (commandWord_and_mask ..).trans (show commandWord 0x01 0 = 0x010000 by decide)
theorem Laws.TableRow.clear : Laws.TableRow.Statement .clear :=
  (commandWord_and_mask ..).trans (show commandWord 0x02 0 = 0x020000 by decide)
theorem Laws.TableRow.scroll : Laws.TableRow.Statement .scroll :=
  (commandWord_and_mask ..).trans (show commandWord 0x03 0 = 0x030000 by decide)
theorem Laws.TableRow.translate (code : Byte) : Laws.TableRow.Statement (.translate code) :=
  (commandWord_and_mask ..).trans (show commandWord 0x04 0 = 0x040000 by decide)

end Sys2Proof
end

