-- ==== Sys2Proof/Laws/Step.lean ====
section
/-!
SUPPORT. All that a step can do, said once: a delivery, an idle turn of the host, or one host statement; and what a host
statement can do.
-/

namespace Sys2Proof.Machine

/-- All that a step can do (20_memory.md R50, 41_keyboard.md R109, 60_exceptions.md R153). -/
theorem step_cases {s t : State} (h : step s = .next t) :
    (∃ k, s.turn = .key k ∧ t = s.takeTurn.deliver k) ∨
    (s.turn = .host ∧ t = s.takeTurn) ∨
    (∃ st, s.executes st ∧ runStmt st s.takeTurn = .next t) := by
  unfold step stepTurn at h
  split at h
  · rename_i ht
    unfold hostTurn at h
    split at h
    · cases h; exact .inr (.inl ⟨ht, rfl⟩)
    · rename_i hq
      split at h
      · cases h; exact .inr (.inl ⟨ht, rfl⟩)
      · rename_i st hst
        exact .inr (.inr ⟨st, ⟨ht, Bool.eq_false_iff.mpr hq, hst⟩, h⟩)
  · rename_i k hk
    cases h; exact .inl ⟨k, hk, rfl⟩

/-- The step of a state whose host is to execute `st`. -/
theorem step_of_executes {s : State} {st : Stmt} (h : s.executes st) : step s = runStmt st s.takeTurn := by
  obtain ⟨ht, hq, hp⟩ := h
  have hq' : s.takeTurn.quiescent = false := hq
  unfold step stepTurn
  rw [ht]
  simp only [hostTurn, hq', Bool.false_eq_true, if_false, State.takeTurn_program, State.takeTurn_pc, hp]

/-- A statement's operands do not depend on whose turn comes next. -/
theorem eval_takeTurn (s : State) (e : Expr) : e.eval s.takeTurn = e.eval s := by
  induction e with
  | lit n => rfl
  | temp k => rfl
  | bin o a b iha ihb => simp only [Expr.eval, iha, ihb]

theorem resolve_takeTurn (s : State) (p : PortRef) : p.resolve s.takeTurn = p.resolve s := by
  cases p <;> rfl

theorem address_takeTurn (s : State) (m : MemRef) : m.address s.takeTurn = m.address s := by
  cases m <;> simp only [MemRef.address, eval_takeTurn, State.takeTurn_cfg]

/-- All that a host statement can do: a port write, a port read, a window write, a window read, or a change of the host's own
state (30_encoding.md R75, R76). -/
theorem runStmt_cases {st : Stmt} {s t : State} (h : runStmt st s = .next t) :
    (∃ w p v port u, st = .out w p v ∧ p.resolve s = .next port ∧ writePort port w (v.eval s) s = .next u ∧ t = u.afterAccess) ∨
    (∃ w p dst port v u, st = .inp w p dst ∧ p.resolve s = .next port ∧ readPort port w s = .next (v, u) ∧
      t = u.receive dst v) ∨
    (∃ w m v u, st = .st w m v ∧ writeMem (m.address s) w (v.eval s) s = .next u ∧ t = u.advance) ∨
    (∃ w m dst v u, st = .ld w m dst ∧ readMem (m.address s) w s = .next (v, u) ∧ t = u.receive dst v) ∨
    (∃ dst v, t = (s.setTemp dst v).advance) ∨
    (∃ pc, t = { s with pc := pc }) ∨
    (∃ e, st = .ret e ∧ t = { s with pc := s.program.length, returned := e.map (Expr.eval s) }) ∨
    (∃ k b, t = { s with buf := Sparse.put k b s.buf }.advance) := by
  cases st with
  | out w p v =>
    obtain ⟨port, hp, h⟩ := andThen_eq_next h
    obtain ⟨u, hu, h⟩ := andThen_eq_next h
    cases h
    exact .inl ⟨w, p, v, port, u, rfl, hp, hu, rfl⟩
  | inp w p dst =>
    obtain ⟨port, hp, h⟩ := andThen_eq_next h
    obtain ⟨⟨v, u⟩, hu, h⟩ := andThen_eq_next h
    cases h
    exact .inr (.inl ⟨w, p, dst, port, v, u, rfl, hp, hu, rfl⟩)
  | st w m v =>
    obtain ⟨u, hu, h⟩ := andThen_eq_next h
    cases h
    exact .inr (.inr (.inl ⟨w, m, v, u, rfl, hu, rfl⟩))
  | ld w m dst =>
    obtain ⟨⟨v, u⟩, hu, h⟩ := andThen_eq_next h
    cases h
    exact .inr (.inr (.inr (.inl ⟨w, m, dst, v, u, rfl, hu, rfl⟩)))
  | assign dst e => cases h; exact .inr (.inr (.inr (.inr (.inl ⟨dst, _, rfl⟩))))
  | jump l => cases h; exact .inr (.inr (.inr (.inr (.inr (.inl ⟨l, rfl⟩)))))
  | jumpIf c l =>
    simp only [runStmt] at h
    split at h <;> cases h
    · exact .inr (.inr (.inr (.inr (.inr (.inl ⟨l, rfl⟩)))))
    · exact .inr (.inr (.inr (.inr (.inr (.inl ⟨s.pc + 1, rfl⟩)))))
  | ret e => cases h; exact .inr (.inr (.inr (.inr (.inr (.inr (.inl ⟨e, rfl, rfl⟩))))))
  | bufStore i v => cases h; exact .inr (.inr (.inr (.inr (.inr (.inr (.inr ⟨_, _, rfl⟩))))))
  | needCapacity cap =>
    simp only [runStmt] at h
    split at h <;> cases h
    exact .inr (.inr (.inr (.inr (.inr (.inl ⟨s.pc + 1, rfl⟩)))))

/-- A command issued by a step either keeps FAULTS, and the pc advances, or raises the fault it records. -/
theorem issue_cases {s u : State} {i : Instr} (hi : s.issues i) (h : exec i s.takeTurn = .next u) :
    (u.faults = s.faults ∧ u.afterAccess = u.advance) ∨ ∃ k, s.raises k ∧ u = s.takeTurn.recordFault k := by
  have running : u.faults = s.faults → u.refused = s.refused → u.afterAccess = u.advance := fun hf hr =>
    State.afterAccess_of_running ((State.quiescent_congr hf hr).trans hi.2.1)
  rcases exec_frame h with ⟨_, hd⟩ | ⟨k, _, hd⟩ | ⟨a, y, rfl, hn, rfl⟩ | ⟨a, c, rfl, hc, hr, rfl⟩
  · have hf : u.faults = s.faults := by rw [hd]; rfl
    have hr : u.refused = s.refused := by rw [hd]; rfl
    exact .inl ⟨hf, running hf hr⟩
  · have hf : u.faults = s.faults := by rw [hd]; rfl
    have hr : u.refused = s.refused := by rw [hd]; rfl
    exact .inl ⟨hf, running hf hr⟩
  · exact .inr ⟨.uninitCursor, ⟨hn, a, y, hi⟩, rfl⟩
  · exact .inr ⟨.surfaceRange (2 * c - 2), ⟨c, a, hc, by omega, by simp only [fbSize_eq]; omega, hi⟩, rfl⟩

/-- A port read whose fault is `k`, at the host's turn, raises `k`. -/
theorem raises_of_portReadFaults {s : State} {q : Port} {k : FaultKind} (hr : s.readsPort q)
    (h : portReadFaults s.takeTurn q k) : s.raises k := by
  rcases h with ⟨rfl, h1, rfl⟩ | ⟨rfl, h1, rfl⟩ | ⟨rfl, h1, h2, rfl⟩ | ⟨rfl, h1, h2, rfl⟩
  · exact ⟨h1, hr⟩
  · exact ⟨h1, .inl hr⟩
  · exact ⟨h2, h1, hr⟩
  · exact ⟨h2, h1, hr⟩

/-- Every step, by what it may write: a delivery; the issue of a command that raises no fault; a host write of the cursor data port; a
host read of the keyboard data port; a host write of the window, of the index port or of the ARG port; nothing of the block; or the
record of the fault that it raises. -/
theorem step_effects {s t : State} (h : step s = .next t) :
    (∃ k, s.turn = .key k ∧ t = s.takeTurn.deliver k) ∨
    (∃ i u, s.issues i ∧ exec i s.takeTurn = .next u ∧ u.faults = s.faults ∧ t = u.advance) ∨
    (∃ p v, s.executes (.out .byte p v) ∧ p.resolve s = .next .crtcData ∧
      ∃ b, t = { s.takeTurn with curHi := b }.advance ∨ t = { s.takeTurn with curLo := b }.advance) ∨
    (∃ p d, s.executes (.inp .byte p d) ∧ p.resolve s = .next .kbdData ∧
      ∃ v, t = (({ s.takeTurn with kbdObf := false } : State).setTemp d v).advance) ∨
    (∃ w m v, s.executes (.st w m v) ∧ t = { s.takeTurn with fb := t.fb, pc := t.pc }) ∨
    (∃ p v, s.executes (.out .byte p v) ∧ p.resolve s = .next .crtcIndex ∧ ∃ b, t = { s.takeTurn with crtcIdx := b }.advance) ∨
    (∃ p v, s.executes (.out .word p v) ∧ p.resolve s = .next .arg ∧ ∃ x, t = { s.takeTurn with arg := x }.advance) ∨
    (t = { s with
      schedule := t.schedule, turns := t.turns, pc := t.pc, temps := t.temps, buf := t.buf, returned := t.returned
      draws := t.draws }) ∨
    (∃ k, s.raises k ∧ t = s.takeTurn.recordFault k) := by
  rcases step_cases h with ⟨k, hk, rfl⟩ | ⟨_, rfl⟩ | ⟨st, hx, hst⟩
  · exact .inl ⟨k, hk, rfl⟩
  · exact .inr (.inr (.inr (.inr (.inr (.inr (.inr (.inl rfl)))))))
  have adv : ∀ u : State, u.faults = s.faults → u.refused = s.refused → u.afterAccess = u.advance := fun u hf hr =>
    State.afterAccess_of_running ((State.quiescent_congr hf hr).trans hx.2.1)
  rcases runStmt_cases hst with ⟨w, p, v, port, u, rfl, hp, hw, rfl⟩ | ⟨w, p, dst, port, v, u, rfl, hp, hr, rfl⟩ |
    ⟨w, m, v, u, rfl, hw, rfl⟩ | ⟨w, m, dst, v, u, rfl, hr, rfl⟩ | ⟨d, v, rfl⟩ | ⟨pc, rfl⟩ | ⟨e, rfl, rfl⟩ | ⟨k, b, rfl⟩
  · rw [resolve_takeTurn] at hp
    rw [eval_takeTurn] at hw
    rcases writePort_cases hw with ⟨rfl, rfl, rfl⟩ | ⟨rfl, rfl, _, rfl⟩ | ⟨rfl, rfl, _, rfl⟩ | ⟨rfl, rfl, hb, rfl⟩ |
      ⟨rfl, rfl, i, hd, he⟩ | ⟨rfl, rfl, rfl⟩
    · exact .inr (.inr (.inr (.inr (.inr (.inl ⟨p, v, hx, hp, _, adv _ rfl rfl⟩)))))
    · exact .inr (.inr (.inl ⟨p, v, hx, hp, _, .inl (adv _ rfl rfl)⟩))
    · exact .inr (.inr (.inl ⟨p, v, hx, hp, _, .inr (adv _ rfl rfl)⟩))
    · exact .inr (.inr (.inr (.inr (.inr (.inr (.inr (.inr ⟨.uninitIndex, ⟨hb, .inr ⟨p, v, hx, hp⟩⟩, State.recordFault_afterAccess ..⟩)))))))
    · have hi : s.issues i := ⟨hx.1, hx.2.1, p, v, hx.2.2, hp, hd⟩
      rcases issue_cases hi he with ⟨hf, ha⟩ | ⟨k, hk, rfl⟩
      · exact .inr (.inl ⟨i, u, hi, he, hf, ha⟩)
      · exact .inr (.inr (.inr (.inr (.inr (.inr (.inr (.inr ⟨k, hk, State.recordFault_afterAccess ..⟩)))))))
    · exact .inr (.inr (.inr (.inr (.inr (.inr (.inl ⟨p, v, hx, hp, _, adv _ rfl rfl⟩))))))
  · rw [resolve_takeTurn] at hp
    rcases readPort_cases hr with ⟨n, rfl, rfl | rfl | ⟨rfl, rfl, _, rfl⟩⟩ | ⟨rfl, rfl, k, hk, rfl⟩
    · exact .inr (.inr (.inr (.inr (.inr (.inr (.inr (.inl rfl)))))))
    · exact .inr (.inr (.inr (.inr (.inr (.inr (.inr (.inl rfl)))))))
    · exact .inr (.inr (.inr (.inl ⟨p, dst, hx, hp, n, rfl⟩)))
    · exact .inr (.inr (.inr (.inr (.inr (.inr (.inr (.inr ⟨k, raises_of_portReadFaults ⟨p, dst, hx, hp⟩ hk, rfl⟩)))))))
  · refine .inr (.inr (.inr (.inr (.inl ⟨w, m, v, hx, ?_⟩))))
    obtain ⟨o, ho, h'⟩ := writeMem_cases hw
    rcases h' with ⟨rfl, rfl⟩ | ⟨rfl, rfl⟩ <;> rfl
  · rcases readMem_cases hr with ⟨n, rfl, rfl⟩ | ⟨rfl, o, ho, hb, rfl, ha⟩
    · exact .inr (.inr (.inr (.inr (.inr (.inr (.inr (.inl rfl)))))))
    · rw [address_takeTurn] at ha
      exact .inr (.inr (.inr (.inr (.inr (.inr (.inr (.inr ⟨.uninitRead (.fb o), ⟨hb, ho, w, m, dst, hx, ha⟩, rfl⟩)))))))
  all_goals exact .inr (.inr (.inr (.inr (.inr (.inr (.inr (.inl rfl)))))))

end Sys2Proof.Machine
end

