-- ==== Sys2Proof/Tests/Slice0.lean ====
section
/-!
SUPPORT. Tests on fixed values, each with the spec's own expected result (95_test_vectors.md, 30_encoding.md R67 and R78), the
well-formedness smoke tests, and a witness for the hypotheses of each statement. The configuration is the non-normative reference
of 93_implementation_defined.md G5, with DEFAULT_ATTR = 0x0F.
-/

open Sys2Proof Sys2Proof.Machine

namespace Sys2Proof.Tests

/-! ### Small states -/

/-- The reference configuration, which is admitted. -/
def refConfig : AdmittedConfig := ⟨Config.reference, by decide +kernel⟩
/-- The state after reset under the reference configuration, with the host's turn next. -/
def ref : State := { State.resetWith refConfig with schedule := [.host] }
/-- A state with the cursor on cell `c`. -/
def cursorOn (c : Nat) : State := ref.setCur c
/-- A state with the index register selecting `i`. -/
def indexed (i : Byte) : State := { cursorOn 300 with crtcIdx := .val i }
/-- A state with a scan code pending. -/
def pending (k : Byte) : State := { ref with kbdBuf := k, kbdObf := true }
/-- A state in which cell 5 shows 'Q' in the colour 0x1F. -/
def cellFive : State := (cursorOn 7).setCellAt 10 0x51 0x1F
/-- A state whose host is at its one statement. -/
def running (s : State) (st : Stmt) : State := { s with program := [st] }

/-- The state an outcome leads to, or the one before. -/
def landed (s : State) (o : Host.Outcome State Fault Refusal) : State := (nextOf o).getD s
/-- The state after one command, if it completes. -/
def after (i : Instr) (s : State) : State := landed s (exec i s)
/-- A cell: character and attribute. -/
def cell (s : State) (i : Nat) : MByte × MByte := (s.fbByte (2 * i), s.fbByte (2 * i + 1))
/-- SHIFT and RES after a TRANSLATE. -/
def translated (k : Byte) (shift : Bool) : Bool × Word :=
  ((after (.translate k) { ref with shift := shift }).shift, (after (.translate k) { ref with shift := shift }).res)
/-- The value a read returns. -/
def valueOf (o : ReadOutcome) : Option Nat := (nextOf o).bind Prod.fst
/-- The fault records after a read. -/
def readFaults (o : ReadOutcome) : List FaultRecord := ((nextOf o).map fun r => r.2.faults).getD []

/-- An outcome that is a next state, told by evaluation. -/
theorem completes {σ : Type} {o : Host.Outcome σ Fault Refusal} (h : (nextOf o).isSome = true) : ∃ t, o = .next t := by
  cases o with
  | next t => exact ⟨t, rfl⟩
  | fault f => exact nomatch f
  | refused _ => cases h

/-! ### Well-formedness: each check refuses an ill-formed term

A command has no ill-formed term: its operands are bytes, and every byte is an operand (30_encoding.md R68, R72). -/

theorem test_reference_configuration_is_valid : Config.reference.valid = true := by decide +kernel

theorem test_shift_code_b_zero_is_refused : Config.shiftCodeBOk { Config.reference with shiftCodeB := 0 } = false := by decide
theorem test_shift_code_b_with_release_bit_is_refused :
    Config.shiftCodeBOk { Config.reference with shiftCodeB := 0xB6 } = false := by decide
theorem test_shift_code_b_equal_to_a_is_refused :
    Config.shiftCodeBOk { Config.reference with shiftCodeB := 0x2A } = false := by decide
theorem test_shift_code_b_equal_to_space_is_refused :
    Config.shiftCodeBOk { Config.reference with shiftCodeB := 0x39 } = false := by decide
theorem test_space_code_with_release_bit_is_refused :
    Config.spaceCodeOk { Config.reference with spaceCode := 0x80 } = false := by decide
theorem test_space_code_equal_to_shift_a_is_refused :
    Config.spaceCodeOk { Config.reference with spaceCode := 0x2A } = false := by decide
theorem test_short_table_is_refused : Config.tableOk (Config.referenceUnshifted.take 51) chLowerA = false := by decide +kernel
theorem test_table_entry_zero_is_refused :
    Config.tableOk (Config.referenceUnshifted.set 3 (some 0)) chLowerA = false := by decide +kernel
theorem test_wrong_entry_for_a_is_refused : Config.tableOk Config.referenceUnshifted chUpperA = false := by decide +kernel
theorem test_wrong_shifted_entry_for_a_is_refused : Config.tableOk Config.referenceShifted chLowerA = false := by decide +kernel
theorem test_odd_ctrl_base_is_refused : Config.portsOk { Config.reference with ctrlBase := 0x0E01 } = false := by decide +kernel
theorem test_ctrl_base_past_the_port_space_is_refused :
    Config.portsOk { Config.reference with ctrlBase := 0xFFFC } = false := by decide +kernel
theorem test_shared_port_is_refused : Config.portsOk { Config.reference with kbdDataPort := 0x0E02 } = false := by decide +kernel
theorem test_wild_jump_is_refused : programWellFormed [.jump 2] = false := by decide
theorem test_wild_conditional_jump_is_refused : programWellFormed [.ret none, .jumpIf ⟨.eq, .lit 0, .lit 0⟩ 3] = false := by decide
theorem test_read_line_is_well_formed :
    programWellFormed (clearStmts ++ readLineStmts Config.reference 1 (.lit 100) (.temp 7) 0 1 2 ++ [.ret none]) = true := by decide +kernel

/-! ### Decoding: words written out bit by bit from 30_encoding.md R67, R71 -/

/-- Format C: opcode 0x01, A = 0x1F, S = 'H' (P1, word 0x011F48). -/
theorem test_decode_putc : decode 0b000000010001111101001000 = .ok (.putc 0x1F 0x48) := by decide
/-- Format N: opcode 0x02, every don't-care bit set. -/
theorem test_decode_clear : decode 0b000000101111111111111111 = .ok .clear := by decide
/-- Format N: opcode 0x03. -/
theorem test_decode_scroll : decode 0b000000110000000000000000 = .ok .scroll := by decide
/-- Format K: opcode 0x04, don't-care byte 0xAB, K = 0x1E (T19). -/
theorem test_decode_translate : decode 0b000001001010101100011110 = .ok (.translate 0x1E) := by decide
/-- R72: the reserved opcodes next to the four commands, and the last. -/
theorem test_reserved_opcodes_have_no_command :
    decode 0x000000 = .error (.reservedOpcode 0x00) ∧ decode 0x051F48 = .error (.reservedOpcode 0x05) ∧
    decode 0xFF0000 = .error (.reservedOpcode 0xFF) := by decide
/-- R64: the word is `op : ARG`, the low byte of ARG in bits 7:0. -/
theorem test_encode_puts_operands_in_their_fields :
    encode (.putc 0x07 0x0A) = 0x01070A ∧ encode .clear = 0x020000 ∧ encode .scroll = 0x030000 ∧
    encode (.translate 0x9E) = 0x04009E := by decide
/-- The table's numbering of the bits is the command word's. -/
theorem test_table_words_decode :
    decodeTableWord 24 0x010758 = some (.putc 0x07 0x58) ∧ decodeTableWord 24 0x050000 = none := by decide
/-- A placed table word is what the next step runs; PUTC as the first command after reset raises UNINIT_CURSOR (P6). -/
theorem test_placed_words_run_next :
    (nextOf (step (ref.withFetchWord 24 0x04001E))).map State.res = some 0x0161 ∧
    (landed ref (step (ref.withFetchWord 24 0x010761))).faults = [⟨.uninitCursor, 0⟩] := by decide +kernel

/-! ### PUTC -/

/-- PG3, and PG4 on a screen whose last cell shows 'Q': the row moves up before the glyph is written. -/
theorem test_putc_glyph :
    let t := after (.putc 0x1E 0x71) (cursorOn 1999)
    let u := after (.putc 0x07 0x72) ((cursorOn 2000).setCellAt 3998 0x51 0x1F)
    cell t 1999 = (.val 0x71, .val 0x1E) ∧ t.cur = some 2000 ∧
    cell u 1919 = (.val 0x51, .val 0x1F) ∧ cell u 1920 = (.val 0x72, .val 0x07) ∧ cell u 1999 = (.val 0x00, .val 0x0F) ∧
    u.cur = some 1921 := by decide +kernel
/-- PN3, PN4, PB3, PB4 and PB5. -/
theorem test_putc_newline_and_backspace :
    (after (.putc 0x07 0x0A) (cursorOn 1919)).cur = some 1920 ∧ (after (.putc 0x07 0x0A) (cursorOn 1919)).fb = [] ∧
    cell (after (.putc 0x07 0x0A) (cursorOn 1920)) 1920 = (.val 0x00, .val 0x0F) ∧
    cell (after (.putc 0x07 0x08) (cursorOn 80)) 79 = (.val 0x20, .val 0x07) ∧
    (after (.putc 0x07 0x08) (cursorOn 2000)).cur = some 1999 ∧
    (after (.putc 0x07 0x08) (cursorOn 2001)).faults = [⟨.surfaceRange 4000, 0⟩] := by decide +kernel

/-! ### CLEAR and SCROLL -/

/-- CL1. -/
theorem test_clear_from_reset :
    cell (after .clear ref) 0 = (.val 0x00, .val 0x0F) ∧ cell (after .clear ref) 1999 = (.val 0x00, .val 0x0F) ∧
    (after .clear ref).cur = some 0 ∧ (after .clear ref).crtcIdx = .bot := by decide +kernel
/-- SC2: a defined cell of row 1 moves to row 0, ⊥ cells move with the rest, the last row is blank. -/
theorem test_scroll_moves_rows_up :
    let t := after .scroll (ref.setCellAt 164 0x41 0x07)
    cell t 2 = (.val 0x41, .val 0x07) ∧ cell t 82 = (.bot, .bot) ∧ cell t 1920 = (.val 0x00, .val 0x0F) ∧
    t.cur = some 1920 := by decide +kernel

/-! ### TRANSLATE -/

/-- T1, T2, T3, T4 (W6). -/
theorem test_key_a_is_translated :
    translated 0x1E false = (false, 0x0161) ∧ translated 0x1E true = (true, 0x0141) ∧
    translated 0x9E false = (false, 0x0000) ∧ translated 0x9E true = (true, 0x0000) := by decide +kernel
/-- T5, T7, T26, T10, T11, T12, T13, T27, T16. -/
theorem test_shift_space_and_silent_codes :
    translated 0x2A false = (true, 0x0000) ∧ translated 0xAA true = (false, 0x0000) ∧ translated 0x36 false = (true, 0x0000) ∧
    translated 0xB6 true = (false, 0x0000) ∧ translated 0x39 false = (false, 0x0120) ∧ translated 0x39 true = (true, 0x0120) ∧
    translated 0xB9 true = (true, 0x0000) ∧ translated 0x0F false = (false, 0x0000) ∧ translated 0xE0 true = (true, 0x0000) := by
  decide +kernel

/-! ### Ports, keyboard and window -/

/-- X1, X2, X4, X5. -/
theorem test_cursor_data_port :
    (landed ref (writePort .crtcData .byte 0x01 { ref with crtcIdx := .val 14 })).curHi = .val 0x01 ∧
    valueOf (readPort .crtcData .byte (indexed 15)) = some 44 ∧
    refusalOf (writePort .crtcData .byte 0x20 (indexed 0x0A)) = some .unmodelledIndex ∧
    (landed ref (writePort .crtcData .byte 0x00 ref)).faults = [⟨.uninitIndex, 0⟩] := by decide +kernel
/-- K2 and K3. -/
theorem test_second_delivery_is_lost :
    valueOf (readPort .kbdData .byte ((ref.deliver 0x1E).deliver 0x30)) = some 0x1E := by decide +kernel
/-- I3, I5, I6, I7, X7, K5. -/
theorem test_illegal_port_accesses :
    refusalOf (readPort .cmd .byte ref) = some .writeOnly ∧ refusalOf (writePort .res .word 0 ref) = some .readOnly ∧
    refusalOf (writePort .arg .byte 0x12 ref) = some .badWidth ∧ refusalOf (readPort .ctrl1 .byte ref) = some .noRegister ∧
    refusalOf (writePort .crtcIndex .word 0x0E0E ref) = some .badWidth ∧
    refusalOf (writePort .kbdData .byte 0xFF ref) = some .readOnly := by decide +kernel
/-- M1, M2, M4, M5, M6. -/
theorem test_window_reads :
    valueOf (readMem (0xB8000 + 10) .word cellFive) = some 0x1F51 ∧ valueOf (readMem (0xB8000 + 11) .byte cellFive) = some 0x1F ∧
    refusalOf (readMem (0xB8000 + 11) .word cellFive) = some .misaligned ∧
    refusalOf (readMem (0xB8000 + 3999) .word cellFive) = some .misaligned ∧
    readFaults (readMem 0xB8000 .byte ref) = [⟨.uninitRead (.fb 0), 0⟩] := by decide +kernel
/-- M3. -/
theorem test_window_word_write :
    cell (landed ref (writeMem (0xB8000 + 20) .word 0x2E41 (cursorOn 7))) 10 = (.val 0x41, .val 0x2E) := by decide +kernel

/-! ### Witnesses: for each statement with hypotheses, a state and operands that meet them -/

theorem witness_DecodeOfEncodeIsTheCommand :
    (Instr.putc 0xFF 0x00).wellFormed = true ∧ Instr.clear.wellFormed = true ∧ Instr.scroll.wellFormed = true ∧
    (Instr.translate 0xFF).wellFormed = true := by decide
theorem witness_DecodedWordAgreesWithEncoding : decode 0x04AB1E = .ok (.translate 0x1E) := by decide
theorem witness_ReservedOpcodesAreRefused :
    (0 < 256 ∧ (0 = 0 ∨ 5 ≤ 0)) ∧ (5 < 256 ∧ (5 = 0 ∨ 5 ≤ 5)) ∧ (255 < 256 ∧ (255 = 0 ∨ 5 ≤ 255)) := by decide
theorem witness_CommandsTakeTheirOperandsFromArg : State.arg { ref with arg := 0x0741 } = hiLo 0x07 0x41 := by decide
theorem witness_ScrollIsTheTopToBottomCopy : Memory.wf cellFive.fb = true ∧ cellFive.fb ≠ [] := by decide +kernel
/-- Row 1 shows a byte that the last row does not. -/
theorem witness_ScrollIsNotTheBottomToTopCopy :
    Memory.wf (ref.setFbByte 160 5).fb = true ∧ 160 ≤ 160 ∧ 160 < 3840 ∧
    (ref.setFbByte 160 5).fbByte 160 ≠ (ref.setFbByte 160 5).fbByte (3840 + 160 % 160) := by decide +kernel
theorem witness_PutcGlyphWritesAndAdvances :
    isGlyph 0x00 = true ∧ (cursorOn 0).cur = some 0 ∧ (cursorOn 1999).cur = some 1999 ∧ (cursorOn 2000).cur = some 2000 ∧
    (cursorOn 65535).cur = some 65535 := by decide
theorem witness_PutcNewlineMovesOrScrolls :
    (cursorOn 0).cur = some 0 ∧ (cursorOn 1919).cur = some 1919 ∧ (cursorOn 1920).cur = some 1920 ∧
    (cursorOn 65535).cur = some 65535 := by decide
theorem witness_PutcBackspaceErasesOrFaults :
    (cursorOn 0).cur = some 0 ∧ (cursorOn 1).cur = some 1 ∧ (cursorOn 2000).cur = some 2000 ∧
    (cursorOn 2001).cur = some 2001 := by decide
theorem witness_PutcWithUndefinedCursorFaults :
    ref.curHi = .bot ∧ ({ cursorOn 1 with curLo := .bot } : State).curLo = .bot ∧
    ({ cursorOn 1 with curLo := .bot } : State).curHi = .val 0 := by decide
theorem witness_PutcCompletesExactlyWhen :
    (∃ t, exec (.putc 0x07 0x61) (cursorOn 2001) = .next t ∧ t.faults = (cursorOn 2001).faults) ∧
    ∃ t, exec (.putc 0x07 0x08) (cursorOn 2001) = .next t ∧ t.faults ≠ (cursorOn 2001).faults :=
  ⟨⟨_, rfl, rfl⟩, ⟨_, rfl, by decide⟩⟩
theorem witness_DisplayCommandsKeepTheCursorOnTheSurface :
    isDisplayCommand .scroll = true ∧ isDisplayCommand .clear = true ∧ isDisplayCommand (.putc 0x07 0x61) = true ∧
    (∃ t, exec .scroll ref = .next t ∧ t.faults = ref.faults) ∧ (∃ t, exec .clear ref = .next t ∧ t.faults = ref.faults) ∧
    ∃ t, exec (.putc 0x07 0x61) (cursorOn 65535) = .next t ∧ t.faults = (cursorOn 65535).faults :=
  ⟨rfl, rfl, rfl, ⟨_, rfl, rfl⟩, ⟨_, rfl, rfl⟩, ⟨_, rfl, rfl⟩⟩
theorem witness_GlyphsFillCellsInOrder :
    (cursorOn 1998).cur = some 1998 ∧ 1998 + [((0x07 : Byte), (0x58 : Byte)), (0x07, 0x59)].length ≤ 2000 ∧
    ∀ g ∈ [((0x07 : Byte), (0x58 : Byte)), (0x07, 0x59)], isGlyph g.2 = true :=
  ⟨by decide, by simp, by simp [isGlyph]⟩
theorem witness_BackspaceUndoesAGlyph :
    (cursorOn 10).cur = some 10 ∧ (cursorOn 1999).cur = some 1999 ∧ isGlyph 0x6B = true := by decide
theorem witness_ShiftKeySetsOrClearsTheLatch :
    (0x2A : Byte).toNat % 128 = 0x2A ∧ (0xAA : Byte).toNat % 128 = 0x2A ∧
    (0x36 : Byte).toNat % 128 = ref.cfg.shiftCodeB.toNat ∧ (0xB6 : Byte).toNat % 128 = ref.cfg.shiftCodeB.toNat := by decide
theorem witness_OtherReleasesGiveNone :
    (0x9E : Byte).toNat % 128 ≠ 0x2A ∧ (0x9E : Byte).toNat % 128 ≠ ref.cfg.shiftCodeB.toNat ∧ 128 ≤ (0x9E : Byte).toNat ∧
    (0xFF : Byte).toNat % 128 ≠ ref.cfg.shiftCodeB.toNat := by decide
/-- Both ends of the range, an entry that is NONE (0x0F) and one that is not. -/
theorem witness_PrintableCodesAreLookedUp :
    (∀ k ∈ [(0x02 : Byte), 0x0F, 0x35], 2 ≤ k.toNat ∧ k.toNat ≤ 0x35 ∧ k ≠ 0x2A ∧ k ≠ ref.cfg.shiftCodeB ∧ k ≠ ref.cfg.spaceCode) ∧
    ref.cfg.unshifted[0]? = some (some 0x31) ∧ ref.cfg.unshifted[13]? = some none ∧ ref.cfg.shifted[51]? = some (some 0x3F) := by
  decide +kernel
theorem witness_OtherPressesGiveNone :
    ∀ k ∈ [(0x00 : Byte), 0x01, 0x3A, 0x7F], (k.toNat < 2 ∨ 0x35 < k.toNat) ∧ k.toNat < 128 ∧ k ≠ 0x2A ∧ k ≠ ref.cfg.shiftCodeB ∧
      k ≠ ref.cfg.spaceCode := by decide
theorem witness_KeyAGivesItsLetter :
    ref.cfg.shiftCodeB ≠ 0x1E ∧ ref.cfg.spaceCode ≠ 0x1E := by decide
theorem witness_ShiftLatchLaws :
    isShiftCode ref.cfg 0x2A = true ∧ isShiftCode ref.cfg 0x36 = true ∧ (∃ t, exec (.translate 0xAA) ref = .next t) ∧
    isShiftCode ref.cfg (baseCode 0xAA) = true ∧ (∃ t, exec (.translate 0x1E) ref = .next t) ∧
    isShiftCode ref.cfg (baseCode 0x1E) = false := ⟨by decide, by decide, ⟨_, rfl⟩, by decide, ⟨_, rfl⟩, by decide⟩
theorem witness_TranslateNeverReportsNul :
    exec (.translate 0x1E) ref = .next (after (.translate 0x1E) ref) ∧ resHas (after (.translate 0x1E) ref).res = true :=
  ⟨rfl, by decide +kernel⟩
theorem witness_TranslateWritesShiftAndRes :
    isShiftCode ref.cfg (baseCode 0x1E) = false ∧ (translateCode ref.cfg 0x9E false).2 = none ∧
    (translateCode ref.cfg 0x1E false).2 = some 0x61 := by decide +kernel
theorem witness_IndexPortHoldsItsValue :
    ref.crtcIdx = .bot ∧ (∃ t, exec .scroll (indexed 14) = .next t) ∧
    ∃ t, step (running ref (.out .byte (.named .crtcIndex) (.lit 14))) = .next t ∧ t.crtcIdx ≠ ref.crtcIdx :=
  ⟨rfl, ⟨_, rfl⟩, ⟨_, rfl, by decide⟩⟩
theorem witness_CursorDataPortReachesTheSelectedHalf :
    ref.crtcIdx = .bot ∧ (indexed 14).crtcIdx = .val 14 ∧ (indexed 15).crtcIdx = .val 15 ∧ (indexed 0x0A).crtcIdx = .val 0x0A ∧
    ({ ref with crtcIdx := .val 14 } : State).curHi = .bot ∧ ({ ref with crtcIdx := .val 15 } : State).curLo = .bot ∧
    (indexed 14).curHi = .val 1 ∧ (indexed 15).curLo = .val 44 := by decide
theorem witness_CursorRegistersRoundTrip : 65535 < 65536 ∧ (cursorOn 300).curLo = .val 44 := by decide
theorem witness_KeyboardDataIsConsumedByItsRead : (pending 0x1E).kbdObf = true ∧ ref.kbdObf = false := by decide
theorem witness_DeliveryFillsOrIsLost :
    ({ ref with schedule := [.key 0x1E] } : State).turn = .key 0x1E ∧
    ({ pending 0x30 with schedule := [.key 0x1E] } : State).turn = .key 0x1E ∧
    ({ pending 0x30 with schedule := [.key 0x1E] } : State).kbdObf = true ∧
    ({ ref with schedule := [.key 0x1E] } : State).kbdObf = false := by decide
theorem witness_ArgKeepsItsValue :
    65535 < 65536 ∧ (∃ t, execAll [.clear, .putc 0x07 0x41, .scroll, .translate 0x1E] ref = .next t) ∧
    ∃ t, step (running ref (.out .word (.named .arg) (.lit 65535))) = .next t ∧ t.arg ≠ ref.arg :=
  ⟨by decide, ⟨_, rfl⟩, ⟨_, rfl, by decide⟩⟩
theorem witness_ResIsReadWithoutSideEffect :
    isDisplayCommand .clear = true ∧ ∃ t, exec .clear { ref with res := 0x0141 } = .next t := ⟨rfl, _, rfl⟩
theorem witness_OnlyKeyboardDataReadHasASideEffect :
    (∃ v t, readPort .kbdData .byte (pending 0x1E) = .next (some v, t)) ∧
    (Port.res ≠ .kbdData ∧ ∃ v t, readPort .res .word ref = .next (some v, t)) ∧
    ∃ t, readPort .crtcIndex .byte ref = .next (none, t) :=
  ⟨⟨_, _, rfl⟩, ⟨by decide, _, _, rfl⟩, ⟨_, rfl⟩⟩
theorem witness_WindowReads :
    ref.fbByte 3999 = .bot ∧ cellFive.fbByte 10 = .val 0x51 ∧ cellFive.fbByte 11 = .val 0x1F ∧ 10 % 2 = 0 ∧ 3999 % 2 = 1 ∧
    3999 < 4000 ∧ (cellFive.setFbByte 12 0).fbByte 12 = .val 0 ∧ (cellFive.setFbByte 12 0).fbByte 13 = .bot := by decide +kernel
theorem witness_WindowWrites : 0 < 4000 ∧ 3998 < 4000 ∧ 3998 % 2 = 0 ∧ 3999 < 4000 ∧ 3999 % 2 = 1 := by decide
theorem witness_WindowWordRoundTrip : 3998 < 4000 ∧ 3998 % 2 = 0 ∧ 65535 < 65536 := by decide
theorem witness_WindowEdges :
    0xB8000 - 1 < ref.cfg.fbBase ∧ ref.cfg.fbBase + 4000 ≤ 0xB8000 + 4000 ∧ 0xB8000 + 3999 = ref.cfg.fbBase + 3999 := by decide

/-- A state whose next step issues the command in the word `w`. -/
theorem issues_of_placed_word (w : Nat) (i : Instr) (h : decodeTableWord 24 w = some i)
    (hw : ∃ p v, (ref.withFetchWord 24 w).program[0]? = some (.out .byte p v) ∧ p.resolve (ref.withFetchWord 24 w) = .next .cmd ∧
      decode (commandWord (exactByte (v.eval (ref.withFetchWord 24 w))) (ref.withFetchWord 24 w).arg) = .ok i) :
    decodeTableWord 24 w = some i ∧ (ref.withFetchWord 24 w).issues i := ⟨h, rfl, rfl, hw⟩

theorem witness_StepRunsTheDecodedCommand :
    (decodeTableWord 24 0x04001E = some (.translate 0x1E) ∧ (ref.withFetchWord 24 0x04001E).issues (.translate 0x1E)) ∧
    (decodeTableWord 24 0x020000 = some .clear ∧ (ref.withFetchWord 24 0x020000).issues .clear) :=
  ⟨issues_of_placed_word _ _ (by decide) ⟨_, _, rfl, rfl, by decide⟩,
    issues_of_placed_word _ _ (by decide) ⟨_, _, rfl, rfl, by decide⟩⟩

/-- A non-empty framebuffer, a temporary, a buffer byte and a reported character: the invariant holds and a step completes. -/
def lived : State := { running cellFive (.assign 0 (.lit 7)) with temps := [(2, 5)], buf := [(0, 0x61)], res := 0x0161 }

theorem witness_StepKeepsTheInvariant : lived.Inv ∧ lived.fb ≠ [] ∧ ∃ t, step lived = .next t :=
  ⟨⟨by decide +kernel, by decide, by decide, by decide, by decide, by decide⟩, by decide +kernel, _, rfl⟩

/-- A step that changes SHIFT, and RES with it. -/
theorem witness_OnlyShiftCodesChangeShift :
    ∃ t, step (({ ref with res := 0x0141 } : State).withFetchWord 24 0x04002A) = .next t ∧ t.shift ≠ ref.shift := ⟨_, rfl, by decide⟩
theorem witness_OnlyTranslateChangesRes :
    ∃ t, step (ref.withFetchWord 24 0x04001E) = .next t ∧ t.res ≠ ref.res := ⟨_, rfl, by decide +kernel⟩
/-- A command and a window write that change FB. -/
theorem witness_OnlyDisplayCommandsAndWindowWritesChangeFb :
    (∃ t, step (ref.withFetchWord 24 0x020000) = .next t ∧ t.fb ≠ ref.fb) ∧
    ∃ t, step (running ref (.st .byte (.fb (.lit 3999)) (.lit 7))) = .next t ∧ t.fb ≠ ref.fb :=
  ⟨⟨_, rfl, by decide +kernel⟩, ⟨_, rfl, by decide⟩⟩
theorem witness_OnlyDisplayCommandsAndDataPortChangeCursor :
    (∃ t, step (ref.withFetchWord 24 0x030000) = .next t ∧ t.curHi ≠ ref.curHi) ∧
    ∃ t, step (running (indexed 15) (.out .byte (.named .crtcData) (.lit 7))) = .next t ∧ t.curLo ≠ (indexed 15).curLo :=
  ⟨⟨_, rfl, by decide⟩, ⟨_, rfl, by decide⟩⟩
theorem witness_OnlyDeliveriesAndReadsChangeKeyboardRegisters :
    (∃ t, step { ref with schedule := [.key 0x1E] } = .next t ∧ t.kbdBuf ≠ ref.kbdBuf ∧ t.kbdObf ≠ ref.kbdObf) ∧
    ∃ t, step (running (pending 0x1E) (.inp .byte (.named .kbdData) 0)) = .next t ∧ t.kbdObf ≠ (pending 0x1E).kbdObf :=
  ⟨⟨_, rfl, by decide, by decide⟩, ⟨_, rfl, by decide⟩⟩
/-- One state for each line of the table of R151, and each location. -/
theorem witness_FaultsAreRaisedExactlyWhereTheTableSays :
    (ref.withFetchWord 24 0x010761).raises .uninitCursor ∧
    ((cursorOn 2001).withFetchWord 24 0x010708).raises (.surfaceRange 4000) ∧
    (running ref (.ld .byte (.fb (.lit 3999)) 0)).raises (.uninitRead (.fb 3999)) ∧
    (running ref (.ld .word (.fb (.lit 0)) 0)).raises (.uninitRead (.fb 0)) ∧
    (running (ref.setFbByte 0 7) (.ld .word (.fb (.lit 0)) 0)).raises (.uninitRead (.fb 1)) ∧
    (running { ref with crtcIdx := .val 14 } (.inp .byte (.named .crtcData) 0)).raises (.uninitRead .curHi) ∧
    (running { ref with crtcIdx := .val 15 } (.inp .byte (.named .crtcData) 0)).raises (.uninitRead .curLo) ∧
    (running ref (.inp .byte (.named .crtcIndex) 0)).raises (.uninitRead .crtcIdx) ∧
    (running ref (.inp .byte (.named .crtcData) 0)).raises .uninitIndex ∧
    (running ref (.out .byte (.named .crtcData) (.lit 0))).raises .uninitIndex := by
  refine ⟨⟨rfl, 0x07, 0x61, rfl, rfl, _, _, rfl, rfl, by decide⟩, ⟨2001, 0x07, rfl, rfl, by decide, rfl, rfl, _, _, rfl, rfl, by decide⟩,
    ⟨by decide, by decide, _, _, _, ⟨rfl, rfl, rfl⟩, .inl ⟨rfl, nofun⟩⟩,
    ⟨by decide, by decide, _, _, _, ⟨rfl, rfl, rfl⟩, .inl ⟨rfl, fun _ => rfl⟩⟩,
    ⟨by decide, by decide, _, _, _, ⟨rfl, rfl, rfl⟩, .inr ⟨rfl, rfl, rfl, by decide⟩⟩,
    ⟨rfl, rfl, _, _, ⟨rfl, rfl, rfl⟩, rfl⟩, ⟨rfl, rfl, _, _, ⟨rfl, rfl, rfl⟩, rfl⟩, ⟨rfl, _, _, ⟨rfl, rfl, rfl⟩, rfl⟩,
    ⟨rfl, .inl ⟨_, _, ⟨rfl, rfl, rfl⟩, rfl⟩⟩, ⟨rfl, .inr ⟨_, _, ⟨rfl, rfl, rfl⟩, rfl⟩⟩⟩
theorem witness_FaultsAndRefusalsOnlyMarkTheState :
    (∃ t, step (running ref (.ld .byte (.fb (.lit 0)) 0)) = .next t ∧ t.faults ≠ ref.faults) ∧
    step (running ref (.inp .byte (.named .cmd) 0)) = .refused .writeOnly ∧ (∃ t, step lived = .next t) ∧
    ({ ref with refused := true } : State).quiescent = true ∧ ({ ref with refused := true } : State).turn = .host :=
  ⟨⟨_, rfl, by decide⟩, rfl, ⟨_, rfl⟩, by decide, by decide⟩
theorem witness_StepKeepsTheConfiguration : ∃ t, step lived = .next t := ⟨_, rfl⟩
theorem witness_HostControlTouchesNoBlockState :
    Cond.holds ref ⟨.lt, .temp 0, .lit 80⟩ = true ∧ Cond.holds ref ⟨.lt, .lit 80, .temp 0⟩ = false := by decide

end Sys2Proof.Tests
end

/-!
The family 00_scope.md: the ten decoded ports (R8, R60), and that no step changes the configuration or the host's program (R8, R26).
-/

namespace Sys2Proof.Machine

/-! ### The ten decoded ports -/

/-- The number of a port in the register map (00_scope.md R8, 30_encoding.md R60). -/
def portNumber (c : Config) : Port → Nat
  | .crtcIndex => c.crtcIndexPort.toNat
  | .crtcData => c.crtcDataPort.toNat
  | .kbdStatus => c.kbdStatusPort.toNat
  | .kbdData => c.kbdDataPort.toNat
  | .cmd => c.ctrlBase.toNat
  | .ctrl1 => c.ctrlBase.toNat + 1
  | .arg => c.ctrlBase.toNat + 2
  | .ctrl3 => c.ctrlBase.toNat + 3
  | .res => c.ctrlBase.toNat + 4
  | .ctrl5 => c.ctrlBase.toNat + 5

/-- The ports in the order in which `Config.portNumbers` lists their numbers. -/
def decodedPorts : List Port :=
  [.crtcIndex, .crtcData, .kbdStatus, .kbdData, .cmd, .ctrl1, .arg, .ctrl3, .res, .ctrl5]

theorem mem_decodedPorts (p : Port) : p ∈ decodedPorts := by cases p <;> decide

theorem portNumbers_eq_map (c : Config) : c.portNumbers = decodedPorts.map (portNumber c) := rfl

/-- No two ports of an admitted configuration have the same number (R8). -/
theorem portNumber_injective {c : Config} (h : c.portsOk = true) : Function.Injective (portNumber c) := by
  obtain ⟨-, -, hnodup⟩ := (Config.portsOk_iff c).mp h
  rw [portNumbers_eq_map] at hnodup
  exact fun p q hpq => List.inj_on_of_nodup_map hnodup (mem_decodedPorts p) (mem_decodedPorts q) hpq

/-- The decoder answers a port only at that port's number. -/
theorem toNat_of_portAt {c : Config} {a : Word} {p : Port} (h : portAt c a = some p) : a.toNat = portNumber c p := by
  unfold portAt at h
  split_ifs at h <;> cases h <;> simp only [portNumber, *]

/-- The decoder answers some port at the number of every port. -/
theorem portAt_ne_none {c : Config} {a : Word} {p : Port} (h : a.toNat = portNumber c p) : portAt c a ≠ none := by
  intro hnone
  unfold portAt at hnone
  split_ifs at hnone
  cases p <;> simp_all [portNumber, BitVec.toNat_inj]

/-- The decoder answers `p` at the number of `p`: the numbers are distinct. -/
theorem portAt_of_toNat {c : Config} (hc : c.portsOk = true) {a : Word} {p : Port} (h : a.toNat = portNumber c p) :
    portAt c a = some p := by
  obtain ⟨q, hq⟩ := Option.ne_none_iff_exists'.mp (portAt_ne_none h)
  have hqp : q = p := portNumber_injective hc ((toNat_of_portAt hq).symm.trans h)
  rw [hq, hqp]

theorem State.cfg_portsOk (s : State) : s.cfg.portsOk = true := by
  obtain ⟨-, -, -, -, hports⟩ := (Config.valid_iff s.cfg).mp s.config.admitted
  exact hports

/-- An address with the number of a port reaches that port. -/
theorem resolve_addr (s : State) {a : Word} {p : Port} (h : a.toNat = portNumber s.cfg p) :
    (PortRef.addr a).resolve s = .next p := by
  simp only [PortRef.resolve, portAt_of_toNat s.cfg_portsOk h]

/-- The six control ports do not wrap around the port space: CTRL_BASE + 5 <= 0xFFFF (R8). -/
theorem toNat_ctrlBase_add {c : Config} (hc : c.portsOk = true) (k : Word) (hk : k.toNat ≤ 5) :
    (c.ctrlBase + k).toNat = c.ctrlBase.toNat + k.toNat := by
  obtain ⟨-, hroom, -⟩ := (Config.portsOk_iff c).mp hc
  exact BitVec.toNat_add_of_lt (by omega)

/-- Settles O29: each address has the number of its port. -/
theorem portAddressesReachTheirRegisters : Obligations.PortAddressesReachTheirRegisters := by
  intro s
  have ctrl (k : Word) (hk : k.toNat ≤ 5) := toNat_ctrlBase_add s.cfg_portsOk k hk
  exact ⟨resolve_addr s rfl, resolve_addr s rfl, resolve_addr s rfl, resolve_addr s rfl, resolve_addr s rfl,
    resolve_addr s (ctrl 1 (by decide)), resolve_addr s (ctrl 2 (by decide)), resolve_addr s (ctrl 3 (by decide)),
    resolve_addr s (ctrl 4 (by decide)), resolve_addr s (ctrl 5 (by decide))⟩

/-! ### What no step changes -/

/-- No command changes the configuration or the host's program. -/
theorem exec_keeps_config_program {i : Instr} {s t : State} (h : exec i s = .next t) :
    t.config = s.config ∧ t.program = s.program := by
  rcases exec_frame h with ⟨_, hd⟩ | ⟨_, _, hd⟩ | ⟨_, _, _, _, rfl⟩ | ⟨_, _, _, _, _, rfl⟩
  · rw [hd]; exact ⟨rfl, rfl⟩
  · rw [hd]; exact ⟨rfl, rfl⟩
  · exact ⟨rfl, rfl⟩
  · exact ⟨rfl, rfl⟩

@[simp] theorem State.deliver_config (s : State) (k : Byte) : (s.deliver k).config = s.config := by
  unfold State.deliver; split <;> rfl

@[simp] theorem State.deliver_program (s : State) (k : Byte) : (s.deliver k).program = s.program := by
  unfold State.deliver; split <;> rfl

/-- Settles O54, by the cases of `step_effects`. -/
theorem stepKeepsTheConfiguration : Obligations.StepKeepsTheConfiguration := by
  intro s t h
  rcases step_effects h with ⟨k, _, rfl⟩ | ⟨i, u, _, hexec, _, rfl⟩ | ⟨_, _, _, _, _, rfl | rfl⟩ | ⟨_, _, _, _, _, rfl⟩ |
    ⟨_, _, _, _, hwindow⟩ | ⟨_, _, _, _, _, rfl⟩ | ⟨_, _, _, _, _, rfl⟩ | hown | ⟨_, _, rfl⟩
  · simp
  · simpa using exec_keeps_config_program hexec
  · exact ⟨rfl, rfl⟩
  · exact ⟨rfl, rfl⟩
  · exact ⟨rfl, rfl⟩
  · rw [hwindow]; exact ⟨rfl, rfl⟩
  · exact ⟨rfl, rfl⟩
  · exact ⟨rfl, rfl⟩
  · rw [hown]; exact ⟨rfl, rfl⟩
  · exact ⟨rfl, rfl⟩

end Sys2Proof.Machine

/-!
The family 10_state.md: the machine's invariant at reset and after every step (R16, R28), and which steps write which register (R31).
-/

namespace Sys2Proof.Machine

/-! ### The invariant -/

/-- A translation result has a form of R28. -/
theorem State.resLegal_of_resultWord {s : State} {r : Option Byte} (h : s.res = resultWord r) : s.resLegal := by
  cases r with
  | none => simp [State.resLegal, h, resChar]
  | some c =>
    simp only [State.resLegal, h, toNat_resultWord_some, resHas_resultWord_some]
    exact ⟨by omega, nofun⟩

/-- Settles O45: the lists are empty after reset, and RES is the word of NONE. -/
theorem resetHasTheInvariant : Obligations.ResetHasTheInvariant :=
  ⟨rfl, rfl, nofun, rfl, State.resLegal_of_resultWord (r := none) rfl⟩

/-- The invariant speaks of FB, the temporaries, the line buffer and RES only. -/
theorem State.Inv.of_frame {s t : State} (h : s.Inv) (hfb : Memory.wf t.fb = true) (htemps : t.temps = s.temps)
    (hbuf : t.buf = s.buf) (hres : t.resLegal) : t.Inv :=
  ⟨hfb, htemps ▸ h.tempsRising, htemps ▸ h.tempsNonzero, hbuf ▸ h.bufRising, hres⟩

/-- A state that keeps these four keeps the invariant. -/
theorem State.Inv.of_kept {s t : State} (h : s.Inv)
    (ht : t = { t with fb := s.fb, temps := s.temps, buf := s.buf, res := s.res }) : t.Inv := by
  rw [ht]
  exact h.of_frame h.fbWf rfl rfl h.resForm

theorem State.Inv.takeTurn {s : State} (h : s.Inv) : s.takeTurn.Inv := h.of_kept rfl

theorem State.Inv.advance {s : State} (h : s.Inv) : s.advance.Inv := h.of_kept rfl

theorem State.Inv.afterDraw {s : State} (h : s.Inv) : s.afterDraw.Inv := h.of_kept rfl

theorem State.Inv.recordFault {s : State} (h : s.Inv) (k : FaultKind) : (s.recordFault k).Inv := h.of_kept rfl

theorem State.Inv.afterAccess {s : State} (h : s.Inv) : s.afterAccess.Inv := by
  unfold State.afterAccess
  split
  · exact h
  · exact h.advance

/-- A delivery writes KBD_BUF and KBD_OBF at most (41_keyboard.md R109). -/
theorem State.deliver_frame (s : State) (k : Byte) :
    s.deliver k = { s with kbdBuf := (s.deliver k).kbdBuf, kbdObf := (s.deliver k).kbdObf } := by
  unfold State.deliver
  split <;> rfl

theorem State.Inv.deliver {s : State} (h : s.Inv) (k : Byte) : (s.deliver k).Inv := by
  rw [s.deliver_frame k]
  exact h.of_kept rfl

/-- Assigning 0 unlists a temporary, so no listed one holds 0. -/
theorem State.Inv.setTemp {s : State} (h : s.Inv) (k v : Nat) : (s.setTemp k v).Inv := by
  unfold State.setTemp
  split
  · exact ⟨h.fbWf, Sparse.rising_erase h.tempsRising, fun e he => h.tempsNonzero e (Sparse.mem_erase he), h.bufRising, h.resForm⟩
  · rename_i hv
    refine ⟨h.fbWf, Sparse.rising_put v h.tempsRising (Nat.zero_le k), fun e he => ?_, h.bufRising, h.resForm⟩
    rcases Sparse.mem_put he with rfl | he
    · exact hv
    · exact h.tempsNonzero e he

theorem State.Inv.putBuf {s : State} (h : s.Inv) (k : Nat) (b : Byte) : ({ s with buf := Sparse.put k b s.buf } : State).Inv :=
  ⟨h.fbWf, h.tempsRising, h.tempsNonzero, Sparse.rising_put b h.bufRising (Nat.zero_le k), h.resForm⟩

theorem State.Inv.receive {s : State} (h : s.Inv) (dst : Nat) (v : Option Nat) : (s.receive dst v).Inv := by
  cases v with
  | none => exact h
  | some n => exact (h.setTemp dst n).advance

theorem State.Inv.setFbByte {s : State} (h : s.Inv) {o : Nat} (b : Byte) (ho : o < fbSize) : (s.setFbByte o b).Inv :=
  h.of_frame (Memory.wf_write b h.fbWf ho) rfl rfl h.resForm

/-- Every command keeps the invariant: only TRANSLATE writes RES, with a translation result. -/
theorem exec_keeps_inv {i : Instr} {s t : State} (hs : s.Inv) (h : exec i s = .next t) : t.Inv := by
  have hfb := exec_keeps_wf hs.fbWf h
  rcases exec_frame h with ⟨_, hd⟩ | ⟨k, rfl, _⟩ | ⟨_, _, _, _, rfl⟩ | ⟨_, _, _, _, _, rfl⟩
  · rw [hd] at hfb ⊢
    exact hs.of_frame hfb rfl rfl hs.resForm
  · cases h
    exact hs.of_frame hfb rfl rfl (State.resLegal_of_resultWord rfl)
  · exact hs.recordFault _
  · exact hs.recordFault _

theorem writePort_keeps_inv {p : Port} {w : Width} {v : Nat} {s t : State} (hs : s.Inv) (h : writePort p w v s = .next t) :
    t.Inv := by
  rcases writePort_cases h with ⟨_, _, rfl⟩ | ⟨_, _, _, rfl⟩ | ⟨_, _, _, rfl⟩ | ⟨_, _, _, rfl⟩ | ⟨_, _, i, _, hexec⟩ | ⟨_, _, rfl⟩
  · exact hs.of_kept rfl
  · exact hs.of_kept rfl
  · exact hs.of_kept rfl
  · exact hs.recordFault _
  · exact exec_keeps_inv hs hexec
  · exact hs.of_kept rfl

theorem readPort_keeps_inv {p : Port} {w : Width} {v : Option Nat} {s t : State} (hs : s.Inv)
    (h : readPort p w s = .next (v, t)) : t.Inv := by
  rcases readPort_cases h with ⟨_, _, rfl | rfl | ⟨_, _, _, rfl⟩⟩ | ⟨_, _, k, _, rfl⟩
  · exact hs
  · exact hs.afterDraw
  · exact hs.of_kept rfl
  · exact hs.recordFault k

theorem writeMem_keeps_inv {a : Nat} {w : Width} {v : Nat} {s t : State} (hs : s.Inv) (h : writeMem a w v s = .next t) :
    t.Inv := by
  obtain ⟨o, ho, ⟨rfl, rfl⟩ | ⟨rfl, rfl⟩⟩ := writeMem_cases h
  · exact hs.setFbByte _ ho
  · exact (hs.setFbByte _ (Nat.lt_of_succ_lt ho)).setFbByte _ ho

theorem readMem_keeps_inv {a : Nat} {w : Width} {v : Option Nat} {s t : State} (hs : s.Inv)
    (h : readMem a w s = .next (v, t)) : t.Inv := by
  rcases readMem_cases h with ⟨_, _, rfl⟩ | ⟨_, _, _, _, rfl, _⟩
  · exact hs
  · exact hs.recordFault _

theorem runStmt_keeps_inv {st : Stmt} {s t : State} (hs : s.Inv) (h : runStmt st s = .next t) : t.Inv := by
  rcases runStmt_cases h with ⟨_, _, _, _, u, _, _, hw, rfl⟩ | ⟨_, _, dst, _, v, u, _, _, hr, rfl⟩ | ⟨_, _, _, u, _, hw, rfl⟩ |
    ⟨_, _, dst, v, u, _, hr, rfl⟩ | ⟨dst, v, rfl⟩ | ⟨pc, rfl⟩ | ⟨e, _, rfl⟩ | ⟨k, b, rfl⟩
  · exact (writePort_keeps_inv hs hw).afterAccess
  · exact (readPort_keeps_inv hs hr).receive dst v
  · exact (writeMem_keeps_inv hs hw).advance
  · exact (readMem_keeps_inv hs hr).receive dst v
  · exact (hs.setTemp dst v).advance
  · exact hs.of_kept rfl
  · exact hs.of_kept rfl
  · exact (hs.putBuf k b).advance

/-- Settles O46: a step is a delivery, an idle turn or a host statement, and each keeps the invariant. -/
theorem stepKeepsTheInvariant : Obligations.StepKeepsTheInvariant := by
  intro s t hs h
  rcases step_cases h with ⟨k, _, rfl⟩ | ⟨_, rfl⟩ | ⟨st, _, hst⟩
  · exact hs.takeTurn.deliver k
  · exact hs.takeTurn
  · exact runStmt_keeps_inv hs.takeTurn hst

/-! ### Which steps write which register -/

/-- The step from `s` to `t` as the column "written by" of the table in 10_state.md R31 has it: each register keeps its value, or the
step is one of those that write it. -/
structure WrittenBy (s t : State) : Prop where
  shift : t.shift = s.shift ∨ ∃ k, s.issues (.translate k) ∧ t.shift = (translateCode s.cfg k s.shift).1
  res : t.res = s.res ∨ ∃ k, s.issues (.translate k)
  fb : t.fb = s.fb ∨ (∃ i, isDisplayCommand i = true ∧ s.issues i) ∨ ∃ w m v, s.executes (.st w m v)
  cursor : (t.curHi = s.curHi ∧ t.curLo = s.curLo) ∨ (∃ i, isDisplayCommand i = true ∧ s.issues i) ∨ s.writesPort .crtcData
  kbdBuf : t.kbdBuf = s.kbdBuf ∨ ∃ k, s.turn = .key k
  kbdObf : t.kbdObf = s.kbdObf ∨ (∃ k, s.turn = .key k) ∨ s.readsPort .kbdData

/-- A step that keeps all of these registers needs no writer. -/
theorem WrittenBy.of_kept {s t : State} (h : t = { t with
    fb := s.fb, curHi := s.curHi, curLo := s.curLo, shift := s.shift, kbdBuf := s.kbdBuf, kbdObf := s.kbdObf, res := s.res }) :
    WrittenBy s t where
  shift := .inl (congrArg State.shift h :)
  res := .inl (congrArg State.res h :)
  fb := .inl (congrArg State.fb h :)
  cursor := .inl ⟨(congrArg State.curHi h :), (congrArg State.curLo h :)⟩
  kbdBuf := .inl (congrArg State.kbdBuf h :)
  kbdObf := .inl (congrArg State.kbdObf h :)

/-- A delivery writes the keyboard registers only. -/
theorem WrittenBy.of_deliver {s : State} {k : Byte} (hk : s.turn = .key k) : WrittenBy s (s.takeTurn.deliver k) := by
  rw [s.takeTurn.deliver_frame k]
  exact ⟨.inl rfl, .inl rfl, .inl rfl, .inl ⟨rfl, rfl⟩, .inr ⟨k, hk⟩, .inr (.inl ⟨k, hk⟩)⟩

/-- A command writes FB and the cursor, or SHIFT and RES, or none of these. -/
theorem WrittenBy.of_issue {s u : State} {i : Instr} (hi : s.issues i) (h : exec i s.takeTurn = .next u) :
    WrittenBy s u.advance := by
  rcases exec_frame h with ⟨hdisplay, hd⟩ | ⟨k, rfl, _⟩ | ⟨_, _, _, _, rfl⟩ | ⟨_, _, _, _, _, rfl⟩
  · rw [hd]
    exact ⟨.inl rfl, .inl rfl, .inr (.inl ⟨i, hdisplay, hi⟩), .inr (.inl ⟨i, hdisplay, hi⟩), .inl rfl, .inl rfl⟩
  · cases h
    exact ⟨.inr ⟨k, hi, rfl⟩, .inr ⟨k, hi⟩, .inl rfl, .inl ⟨rfl, rfl⟩, .inl rfl, .inl rfl⟩
  · exact .of_kept rfl
  · exact .of_kept rfl

/-- Every step writes as the table of R31 says. -/
theorem step_writtenBy {s t : State} (h : step s = .next t) : WrittenBy s t := by
  rcases step_effects h with ⟨k, hk, rfl⟩ | ⟨i, u, hi, hexec, _, rfl⟩ | ⟨p, v, hx, hp, _, rfl | rfl⟩ | ⟨p, d, hx, hp, _, rfl⟩ |
    ⟨w, m, v, hx, hwindow⟩ | ⟨_, _, _, _, _, rfl⟩ | ⟨_, _, _, _, _, rfl⟩ | hown | ⟨_, _, rfl⟩
  · exact .of_deliver hk
  · exact .of_issue hi hexec
  · exact ⟨.inl rfl, .inl rfl, .inl rfl, .inr (.inr ⟨p, v, hx, hp⟩), .inl rfl, .inl rfl⟩
  · exact ⟨.inl rfl, .inl rfl, .inl rfl, .inr (.inr ⟨p, v, hx, hp⟩), .inl rfl, .inl rfl⟩
  · exact ⟨.inl rfl, .inl rfl, .inl rfl, .inl ⟨rfl, rfl⟩, .inl rfl, .inr (.inr ⟨p, d, hx, hp⟩)⟩
  · rw [hwindow]
    exact ⟨.inl rfl, .inl rfl, .inr (.inr ⟨w, m, v, hx⟩), .inl ⟨rfl, rfl⟩, .inl rfl, .inl rfl⟩
  · exact .of_kept rfl
  · exact .of_kept rfl
  · rw [hown]
    exact .of_kept rfl
  · exact .of_kept rfl

/-- A translation changes the SHIFT latch only at a shift key's code (41_keyboard.md R116, R119). -/
theorem isShiftCode_of_translateCode_ne {c : Config} {k : Byte} {shift : Bool} (h : (translateCode c k shift).1 ≠ shift) :
    isShiftCode c (baseCode k) = true := by
  by_contra hcode
  apply h
  unfold translateCode
  rw [if_neg hcode]
  split_ifs <;> rfl

/-- Settles O47: the writer of SHIFT is a TRANSLATE, and of another code it leaves the latch. -/
theorem onlyShiftCodesChangeShift : Obligations.OnlyShiftCodesChangeShift := by
  intro s t h hne
  obtain ⟨k, hi, hshift⟩ := (step_writtenBy h).shift.resolve_left hne
  exact ⟨k, hi, isShiftCode_of_translateCode_ne (hshift ▸ hne)⟩

/-- Settles O48, by the writer of RES. -/
theorem onlyTranslateChangesRes : Obligations.OnlyTranslateChangesRes :=
  fun _ _ h hne => (step_writtenBy h).res.resolve_left hne

/-- Settles O49, by the writers of FB. -/
theorem onlyDisplayCommandsAndWindowWritesChangeFb : Obligations.OnlyDisplayCommandsAndWindowWritesChangeFb :=
  fun _ _ h hne => (step_writtenBy h).fb.resolve_left hne

/-- Settles O50, by the writers of the cursor. -/
theorem onlyDisplayCommandsAndDataPortChangeCursor : Obligations.OnlyDisplayCommandsAndDataPortChangeCursor :=
  fun _ _ h hne => (step_writtenBy h).cursor.resolve_left fun ⟨hhi, hlo⟩ => hne.elim (· hhi) (· hlo)

/-- Settles O51, by the writers of KBD_BUF and of KBD_OBF. -/
theorem onlyDeliveriesAndReadsChangeKeyboardRegisters : Obligations.OnlyDeliveriesAndReadsChangeKeyboardRegisters :=
  fun _ _ h => ⟨(step_writtenBy h).kbdBuf.resolve_left, (step_writtenBy h).kbdObf.resolve_left⟩

end Sys2Proof.Machine

/-!
The family 20_memory.md: the effects of port reads (R47), the framebuffer window (R42 to R45), and the step that issues a command (R50).
-/

namespace Sys2Proof.Machine

/-! ### Port reads -/

/-- A recorded fault is one entry more in FAULTS. -/
theorem State.recordFault_faults_ne (s : State) (k : FaultKind) : (s.recordFault k).faults ≠ s.faults := by simp

/-- No fault of R151 is raised by a read of the keyboard data port. -/
theorem portReadFaults_ne_kbdData {s : State} {p : Port} {k : FaultKind} (h : portReadFaults s p k) : p ≠ .kbdData := by
  rcases h with ⟨rfl, _⟩ | ⟨rfl, _⟩ | ⟨rfl, _⟩ | ⟨rfl, _⟩ <;> decide

/-- Settles O38, by the cases of `readPort_cases`: a value without effect, a drawn value, a consumed scan code, or a fault. -/
theorem onlyKeyboardDataReadHasASideEffect : Obligations.OnlyKeyboardDataReadHasASideEffect := by
  refine fun s t p w => ⟨fun v h => ?_, fun h => ?_⟩
  · rcases readPort_cases h with ⟨_, _, rfl | rfl | ⟨hp, _, _, rfl⟩⟩ | ⟨hnone, _⟩
    · exact ⟨fun _ => rfl, rfl⟩
    · exact ⟨fun _ => rfl, rfl⟩
    · exact ⟨fun hne => absurd hp hne, rfl⟩
    · cases hnone
  · rcases readPort_cases h with ⟨_, hsome, _⟩ | ⟨_, _, k, hk, rfl⟩
    · cases hsome
    · exact ⟨portReadFaults_ne_kbdData hk, rfl, s.recordFault_faults_ne k⟩

/-! ### Which window accesses are admitted (R42, R46) -/

theorem windowOffset_byte (s : State) {o : Nat} (ho : o < 4000) :
    windowOffset s (s.cfg.fbBase + o) Width.byte.bytes = .next o := by
  rw [windowOffset_base _ ho, if_neg (fun h => absurd h.1 (by decide)), if_neg (by simp only [Width.bytes]; omega)]

/-- An even offset leaves room for two bytes, since FB_SIZE is even. -/
theorem windowOffset_word_even (s : State) {o : Nat} (ho : o < 4000) (heven : o % 2 = 0) :
    windowOffset s (s.cfg.fbBase + o) Width.word.bytes = .next o := by
  rw [windowOffset_base _ ho, if_neg (fun h => h.2 heven), if_neg (by simp only [Width.bytes]; omega)]

theorem windowOffset_word_odd (s : State) {o : Nat} (ho : o < 4000) (hodd : o % 2 = 1) :
    windowOffset s (s.cfg.fbBase + o) Width.word.bytes = .refused .misaligned := by
  rw [windowOffset_base _ ho, if_pos ⟨rfl, by omega⟩]

theorem windowOffset_outside {s : State} {a : Nat} (n : Nat) (ha : a < s.cfg.fbBase ∨ s.cfg.fbBase + 4000 ≤ a) :
    windowOffset s a n = .refused .foreignAddress := if_neg (by rw [fbSize_eq]; omega)

theorem readMem_of_refused {s : State} {a : Nat} {w : Width} {r : Refusal} (h : windowOffset s a w.bytes = .refused r) :
    readMem a w s = .refused r := by rw [readMem, h, andThen_refused]

theorem writeMem_of_refused {s : State} {a : Nat} {w : Width} {r : Refusal} (v : Nat)
    (h : windowOffset s a w.bytes = .refused r) : writeMem a w v s = .refused r := by rw [writeMem, h, andThen_refused]

/-- Settles O42: the window's last byte is at the odd offset 3999. -/
theorem windowEdges : Obligations.WindowEdges := by
  refine fun s v a w => ⟨fun ha => ?_, fun ha => ?_⟩
  · have hout := windowOffset_outside w.bytes ha
    exact ⟨readMem_of_refused hout, writeMem_of_refused v hout⟩
  · have hodd := windowOffset_word_odd s (o := 3999) (by decide) (by decide)
    rw [ha]
    exact ⟨readMem_of_refused hodd, writeMem_of_refused v hodd⟩

/-! ### Window reads (R43) -/

theorem readMem_byte (s : State) {o : Nat} (ho : o < 4000) :
    readMem (s.cfg.fbBase + o) .byte s = readMByte (s.fbByte o) (.fb o) s := by
  rw [readMem, windowOffset_byte s ho, andThen_next]

theorem readMem_word_even (s : State) {o : Nat} (ho : o < 4000) (heven : o % 2 = 0) :
    readMem (s.cfg.fbBase + o) .word s = readFbWord o s := by
  rw [readMem, windowOffset_word_even s ho heven, andThen_next]

/-- The byte of the higher offset is in bits 15:8. -/
theorem readFbWord_of_val {s : State} {o : Nat} {lo hi : Byte} (hlo : s.fbByte o = .val lo) (hhi : s.fbByte (o + 1) = .val hi) :
    readFbWord o s = .next (some (hi.toNat * 256 + lo.toNat), s) := by
  simp only [readFbWord, hlo, hhi, toNat_hiLo]

/-- With either byte ⊥ no value is returned. -/
theorem readFbWord_of_bot {s : State} {o : Nat} (h : s.fbByte o = .bot ∨ s.fbByte (o + 1) = .bot) :
    ∃ l, readFbWord o s = .next (none, s.recordFault (.uninitRead l)) := by
  unfold readFbWord
  split
  · rename_i hlo hhi
    rw [hlo, hhi] at h
    exact h.elim nofun nofun
  · exact ⟨_, rfl⟩
  · exact ⟨_, rfl⟩

/-- Settles O39: an admitted access is the read of its byte or of its two bytes. -/
theorem windowReads : Obligations.WindowReads := by
  intro s o ho
  refine ⟨fun hbot => ?_, fun b hval => ?_, fun hodd => ?_, fun heven hbot => ?_, fun ch a heven hch ha => ?_⟩
  · rw [readMem_byte s ho, hbot, readMByte]
  · rw [readMem_byte s ho, hval, readMByte]
  · exact readMem_of_refused (windowOffset_word_odd s ho hodd)
  · rw [readMem_word_even s ho heven]
    exact readFbWord_of_bot hbot
  · rw [readMem_word_even s ho heven, readFbWord_of_val hch ha]

/-! ### Window writes (R44) -/

theorem writeMem_byte (s : State) {o : Nat} (v : Nat) (ho : o < 4000) :
    writeMem (s.cfg.fbBase + o) .byte v s = .next (s.setFbByte o (byteOf v)) := by
  rw [writeMem, windowOffset_byte s ho, andThen_next]

/-- The two bytes of a word write are those of a cell. -/
theorem writeMem_word_even (s : State) {o : Nat} (v : Nat) (ho : o < 4000) (heven : o % 2 = 0) :
    writeMem (s.cfg.fbBase + o) .word v s = .next (s.setCellAt o (byteOf v) (upperByteOf v)) := by
  rw [writeMem, windowOffset_word_even s ho heven, andThen_next, State.setCellAt]

theorem State.fbByte_setCellAt_char (s : State) {o : Nat} (ch a : Byte) (ho : o + 1 < fbSize) :
    (s.setCellAt o ch a).fbByte o = .val ch := by
  rw [s.fbByte_setCellAt o o ch a ho, if_neg (by omega), if_pos rfl]

theorem State.fbByte_setCellAt_attr (s : State) {o : Nat} (ch a : Byte) (ho : o + 1 < fbSize) :
    (s.setCellAt o ch a).fbByte (o + 1) = .val a := by
  rw [s.fbByte_setCellAt o (o + 1) ch a ho, if_pos rfl]

/-- The cell at an even offset of the window lies on the surface. -/
theorem succ_lt_fbSize {o : Nat} (ho : o < 4000) (heven : o % 2 = 0) : o + 1 < fbSize := by
  rw [fbSize_eq]
  omega

/-- Settles O40, by what `setFbByte` and `setCellAt` leave in each byte. -/
theorem windowWrites : Obligations.WindowWrites := by
  intro s o v ho
  refine ⟨⟨_, writeMem_byte s v ho, ?_, fun a ha => ?_, rfl⟩, fun hodd => ?_, fun heven => ?_⟩
  · exact (s.fbByte_setFbByte o o _ ho).trans (if_pos rfl)
  · exact (s.fbByte_setFbByte o a _ ho).trans (if_neg ha)
  · exact writeMem_of_refused v (windowOffset_word_odd s ho hodd)
  · have hfit := succ_lt_fbSize ho heven
    refine ⟨_, writeMem_word_even s v ho heven, s.fbByte_setCellAt_char _ _ hfit, s.fbByte_setCellAt_attr _ _ hfit,
      fun a hlo hhi => ?_, rfl⟩
    rw [s.fbByte_setCellAt o a _ _ hfit, if_neg hhi, if_neg hlo]

/-- A value of 16 bits is made of its two bytes. -/
theorem toNat_upperByteOf_byteOf {v : Nat} (hv : v < 65536) : (upperByteOf v).toNat * 256 + (byteOf v).toNat = v := by
  simp only [upperByteOf, byteOf, BitVec.toNat_ofNat]
  omega

/-- Settles O41: the read finds the two bytes of the cell that the write left. -/
theorem windowWordRoundTrip : Obligations.WindowWordRoundTrip := by
  intro s o v ho heven hv
  have hfit := succ_lt_fbSize ho heven
  refine ⟨_, writeMem_word_even s v ho heven, ?_⟩
  rw [← s.setCellAt_cfg o (byteOf v) (upperByteOf v), readMem_word_even _ ho heven,
    readFbWord_of_val (s.fbByte_setCellAt_char _ _ hfit) (s.fbByte_setCellAt_attr _ _ hfit), toNat_upperByteOf_byteOf hv]

/-! ### The step that issues a command (R50; 30_encoding.md R64) -/

/-- The step is the command that the CMD write issues, and then the host's pc moves as after any access. -/
theorem step_of_issues {s : State} {i : Instr} (h : s.issues i) :
    step s = andThen (exec i s.takeTurn) fun t => .next t.afterAccess := by
  obtain ⟨hturn, hrunning, p, v, hstmt, hport, hdecode⟩ := h
  rw [step_of_executes ⟨hturn, hrunning, hstmt⟩, runStmt, resolve_takeTurn, hport, andThen_next, eval_takeTurn, writePort_cmd,
    issueCommand, State.takeTurn_arg, hdecode]

/-- No command moves the host's pc. -/
theorem exec_keeps_pc {i : Instr} {s t : State} (h : exec i s = .next t) : t.pc = s.pc := by
  rcases exec_frame h with ⟨_, hd⟩ | ⟨_, _, hd⟩ | ⟨_, _, _, _, rfl⟩ | ⟨_, _, _, _, _, rfl⟩
  · rw [hd]
  · rw [hd]
  · rfl
  · rfl

/-- A command word that decodes, once placed, is issued next: its opcode is written to CMD and the rest stands in ARG. -/
theorem State.issues_withCommandWord (s : State) {w : CommandWord} {i : Instr} (h : decode w = .ok i) :
    (s.withCommandWord w).issues i := by
  refine ⟨rfl, rfl, .named .cmd, .lit (opcodeField w).toNat, rfl, rfl, ?_⟩
  rw [Expr.eval, exactByte_toNat]
  exact (congrArg decode (commandWord_fields w)).trans h

theorem decode_of_decodeTableWord {nbits w : Nat} {i : Instr} (h : decodeTableWord nbits w = some i) :
    decode (BitVec.ofNat 24 (w % 2 ^ nbits)) = .ok i := by
  unfold decodeTableWord at h
  split at h
  · rename_i j hj
    rw [hj, Option.some.inj h]
  · cases h

/-- Settles O44: by `issue_cases` a command keeps FAULTS and the pc advances, or it records a fault and the pc stays. -/
theorem stepRunsTheDecodedCommand : Obligations.StepRunsTheDecodedCommand := by
  refine ⟨fun s i hi => ⟨step_of_issues hi, fun t hexec hkept => ?_, fun t hexec hraised => ?_⟩,
    fun s w i hw => s.issues_withCommandWord (decode_of_decodeTableWord hw)⟩
  · rcases issue_cases hi hexec with ⟨_, hadvance⟩ | ⟨k, _, rfl⟩
    · rw [step_of_issues hi, hexec, andThen_next, hadvance, State.advance, exec_keeps_pc hexec, State.takeTurn_pc]
    · exact absurd hkept (s.takeTurn.recordFault_faults_ne k)
  · rcases issue_cases hi hexec with ⟨hkept, _⟩ | ⟨k, _, rfl⟩
    · exact absurd hkept hraised
    · rw [step_of_issues hi, hexec, andThen_next, State.recordFault_afterAccess]
      exact ⟨rfl, rfl⟩

end Sys2Proof.Machine

/-!
The family 30_encoding.md: the command word (R64, R67 to R72), the CMD write (R64, R70), the register map's refusals (R61), ARG and RES
(R65, R66), and the host's own statements (R76).
-/

namespace Sys2Proof

open Sys2Proof.Machine

/-! ### What decodes (R67, R69, R71, R72) -/

/-- The opcode alone tells the format, and the operands are the fields (R67, R73). -/
theorem decode_eq_ok_iff (w : CommandWord) (i : Instr) :
    decode w = .ok i ↔
      (opcodeField w = 0x01 ∧ i = .putc (attrField w) (lowField w)) ∨ (opcodeField w = 0x02 ∧ i = .clear) ∨
      (opcodeField w = 0x03 ∧ i = .scroll) ∨ (opcodeField w = 0x04 ∧ i = .translate (lowField w)) := by
  unfold decode
  split_ifs with h1 h2 h3 h4
  · simp [h1, eq_comm]
  · simp [h2, eq_comm]
  · simp [h3, eq_comm]
  · simp [h4, eq_comm]
  · exact iff_of_false nofun (by tauto)

theorem decode_commandWord_putc (x : Word) :
    decode (commandWord 0x01 x) = .ok (.putc (x.extractLsb' 8 8) (x.extractLsb' 0 8)) := by
  simp [decode, attrField_commandWord, lowField_commandWord]

/-- CLEAR has no operand field. -/
theorem decode_commandWord_clear (x : Word) : decode (commandWord 0x02 x) = .ok .clear := by simp [decode]

/-- SCROLL has no operand field. -/
theorem decode_commandWord_scroll (x : Word) : decode (commandWord 0x03 x) = .ok .scroll := by simp [decode]

theorem decode_commandWord_translate (x : Word) :
    decode (commandWord 0x04 x) = .ok (.translate (x.extractLsb' 0 8)) := by
  simp [decode, lowField_commandWord]

theorem decode_encode (i : Instr) : decode (encode i) = .ok i := by
  cases i with
  | putc a s => rw [encode, Instr.opcode, decode_commandWord_putc, Instr.argWord, hiLo_hi, hiLo_lo]
  | clear => exact decode_commandWord_clear _
  | scroll => exact decode_commandWord_scroll _
  | translate k => rw [encode, Instr.opcode, decode_commandWord_translate, Instr.argWord, hiLo_lo]

/-- Settles O1, command by command. -/
theorem decodeOfEncodeIsTheCommand : Obligations.DecodeOfEncodeIsTheCommand := fun i _ => decode_encode i

/-- Settles O3: the decoder takes no field that holds a don't-care bit. -/
theorem dontCareBitsDoNotAffectTheCommand : Obligations.DontCareBitsDoNotAffectTheCommand := by
  refine ⟨decode_commandWord_clear, decode_commandWord_scroll, fun x k => ?_⟩
  rw [decode_commandWord_translate, hiLo_lo]

/-- Settles O5: each word is an encoding, and 0x02BEEF is CLEAR with don't-care bits. -/
theorem exampleWordsDecode : Obligations.ExampleWordsDecode :=
  ⟨decode_encode (.putc 0x1F 0x48), decode_encode (.putc 0x07 0x0A), decode_commandWord_clear 0xBEEF, decode_encode .scroll,
    decode_encode (.translate 0x9E)⟩

/-! ### The significant bits of a word that decodes (R67, R69) -/

/-- A command word is made of its three fields (R67). -/
theorem eq_commandWord_hiLo (w : CommandWord) : w = commandWord (opcodeField w) (hiLo (attrField w) (lowField w)) := by
  have hlow : hiLo (attrField w) (lowField w) = w.extractLsb' 0 16 :=
    BitVec.extractLsb'_append_extractLsb'_eq_extractLsb' rfl
  rw [hlow, commandWord_fields]

/-- The mask of format K keeps the opcode and W[7:0] (R67, R69). -/
theorem commandWord_hiLo_and_mask (op a b : Byte) : commandWord op (hiLo a b) &&& 0xFF00FF = commandWord op (hiLo 0 b) := by
  have hlow : hiLo a b &&& hiLo 0 0xFF = hiLo (a &&& 0) (b &&& 0xFF) := BitVec.and_append
  have hword : commandWord op (hiLo a b) &&& commandWord 0xFF (hiLo 0 0xFF) =
      commandWord (op &&& 0xFF) (hiLo a b &&& hiLo 0 0xFF) := BitVec.and_append
  have hkeep (x : Byte) : x &&& 0xFF = x := BitVec.and_allOnes
  have hclear : a &&& 0 = 0 := BitVec.and_zero
  rw [hlow, hkeep, hkeep, hclear] at hword
  exact hword

/-- Settles O2: the mask of format C keeps the whole word, that of format N the opcode, that of format K the opcode and W[7:0]. -/
theorem decodedWordAgreesWithEncoding : Obligations.DecodedWordAgreesWithEncoding := by
  intro w i h
  rw [eq_commandWord_hiLo w]
  rcases (decode_eq_ok_iff w i).mp h with ⟨hop, rfl⟩ | ⟨hop, rfl⟩ | ⟨hop, rfl⟩ | ⟨hop, rfl⟩ <;> rw [hop]
  · exact BitVec.and_allOnes
  · exact commandWord_and_mask ..
  · exact commandWord_and_mask ..
  · exact commandWord_hiLo_and_mask ..

/-! ### Reserved opcodes and the CMD write (R64, R70, R72) -/

theorem exists_decode_iff (w : CommandWord) :
    (∃ i, decode w = .ok i) ↔ 1 ≤ (opcodeField w).toNat ∧ (opcodeField w).toNat ≤ 4 := by
  simp only [decode_eq_ok_iff, exists_or, exists_and_left, exists_eq, and_true, ← BitVec.toNat_inj, BitVec.ofNat_eq_ofNat,
    BitVec.toNat_ofNat]
  omega

end Sys2Proof

namespace Sys2Proof.Machine

theorem issueCommand_of_decode {op : Byte} {s : State} {i : Instr} (h : decode (commandWord op s.arg) = .ok i) :
    issueCommand op s = exec i s := by
  rw [issueCommand, h]

theorem issueCommand_of_reserved {op : Byte} {s : State} (h : ¬∃ i, decode (commandWord op s.arg) = .ok i) :
    issueCommand op s = .refused .reservedOpcode := by
  unfold issueCommand
  split
  · rename_i i hi
    exact absurd ⟨i, hi⟩ h
  · rfl

/-- Settles O4: the refusal is that of an opcode outside 1 to 4. -/
theorem reservedOpcodesAreRefused : Obligations.ReservedOpcodesAreRefused := by
  refine ⟨exists_decode_iff, fun s op hlt hop => ?_⟩
  rw [writePort_cmd]
  apply issueCommand_of_reserved
  rw [exists_decode_iff, opcodeField_commandWord, exactByte_of_lt hlt, BitVec.toNat_ofNat, Nat.mod_eq_of_lt hlt]
  omega

theorem writePort_cmd_of_decode {op : Byte} {s : State} {i : Instr} (h : decode (commandWord op s.arg) = .ok i) :
    writePort .cmd .byte op.toNat s = exec i s := by
  rw [writePort_cmd, exactByte_toNat, issueCommand_of_decode h]

/-- Settles O6: the command word is the opcode followed by ARG. -/
theorem commandsTakeTheirOperandsFromArg : Obligations.CommandsTakeTheirOperandsFromArg := by
  intro s h l harg
  refine ⟨writePort_cmd_of_decode (op := 0x01) ?_, writePort_cmd_of_decode (op := 0x02) (decode_commandWord_clear _),
    writePort_cmd_of_decode (op := 0x03) (decode_commandWord_scroll _), writePort_cmd_of_decode (op := 0x04) ?_⟩
  · rw [harg, decode_commandWord_putc, hiLo_hi, hiLo_lo]
  · rw [harg, decode_commandWord_translate, hiLo_lo]

/-! ### Refused port accesses (R61) -/

theorem readPort_of_portRefusal {p : Port} {w : Width} {r : Refusal} (s : State) (h : portRefusal p .read w = some r) :
    readPort p w s = .refused r := by
  simp only [readPort, h]

theorem writePort_of_portRefusal {p : Port} {w : Width} {r : Refusal} (v : Nat) (s : State)
    (h : portRefusal p .write w = some r) : writePort p w v s = .refused r := by
  simp only [writePort, h]

theorem portRefusal_badWidth {p : Port} {w w' : Width} (d : Dir) (hp : p.width = some w') (hw : w ≠ w') :
    portRefusal p d w = some .badWidth := by
  simp only [portRefusal, hp, ne_eq, hw, not_false_eq_true, if_true]

theorem portRefusal_noRegister {p : Port} (d : Dir) (w : Width) (hp : p.width = none) :
    portRefusal p d w = some .noRegister := by
  simp only [portRefusal, hp]

theorem access_of_portRefusal {p : Port} {w : Width} {r : Refusal} (s : State) (v : Nat) (h : ∀ d, portRefusal p d w = some r) :
    readPort p w s = .refused r ∧ writePort p w v s = .refused r :=
  ⟨readPort_of_portRefusal s (h .read), writePort_of_portRefusal v s (h .write)⟩

/-- Settles O28, by the width of each register and the accesses it admits. -/
theorem illegalPortAccessesAreRefused : Obligations.IllegalPortAccessesAreRefused := by
  have byteWide : ∀ p ∈ [Port.crtcIndex, .crtcData, .kbdStatus, .kbdData, .cmd], p.width = some .byte := by decide
  have wordWide : ∀ p ∈ [Port.arg, .res], p.width = some .word := by decide
  have noWidth : ∀ p ∈ [Port.ctrl1, .ctrl3, .ctrl5], p.width = none := by decide
  intro s v
  refine ⟨fun p hp => access_of_portRefusal s v fun d => portRefusal_badWidth d (byteWide p hp) (by decide),
    fun p hp => access_of_portRefusal s v fun d => portRefusal_badWidth d (wordWide p hp) (by decide),
    writePort_of_portRefusal v s rfl, writePort_of_portRefusal v s rfl, writePort_of_portRefusal v s rfl,
    readPort_of_portRefusal s rfl, fun p hp w => access_of_portRefusal s v fun d => portRefusal_noRegister d w (noWidth p hp)⟩

/-! ### ARG (R65) -/

theorem readPort_arg (s : State) : readPort .arg .word s = .next (some s.arg.toNat, s) := rfl

theorem exec_keeps_arg {i : Instr} {s t : State} (h : exec i s = .next t) : t.arg = s.arg := by
  rcases exec_frame h with ⟨_, hd⟩ | ⟨_, _, hd⟩ | ⟨_, _, _, _, rfl⟩ | ⟨_, _, _, _, _, rfl⟩
  · rw [hd]
  · rw [hd]
  · rfl
  · rfl

theorem execAll_keeps_arg {is : List Instr} {s t : State} (h : execAll is s = .next t) : t.arg = s.arg := by
  induction is generalizing s with
  | nil => cases h; rfl
  | cons i is ih =>
    obtain ⟨u, hexec, hrest⟩ := andThen_eq_next h
    exact (ih hrest).trans (exec_keeps_arg hexec)

@[simp] theorem State.deliver_arg (s : State) (k : Byte) : (s.deliver k).arg = s.arg := by
  rw [s.deliver_frame k]

/-- Of the effects of a step, only a host word write of the ARG port reaches ARG. -/
theorem step_arg_cases {s t : State} (h : step s = .next t) :
    t.arg = s.arg ∨ ∃ p v, s.executes (.out .word p v) ∧ p.resolve s = .next .arg := by
  rcases step_effects h with ⟨k, _, rfl⟩ | ⟨i, u, _, hexec, _, rfl⟩ | ⟨_, _, _, _, _, rfl | rfl⟩ | ⟨_, _, _, _, _, rfl⟩ |
    ⟨_, _, _, _, hwindow⟩ | ⟨_, _, _, _, _, rfl⟩ | ⟨p, v, hx, hp, _⟩ | hown | ⟨_, _, rfl⟩
  · exact .inl (s.takeTurn.deliver_arg k)
  · exact .inl (exec_keeps_arg hexec :)
  · exact .inl rfl
  · exact .inl rfl
  · exact .inl rfl
  · exact .inl (congrArg State.arg hwindow :)
  · exact .inl rfl
  · exact .inr ⟨p, v, hx, hp⟩
  · exact .inl (congrArg State.arg hown :)
  · exact .inl rfl

/-- Settles O36: no command writes ARG, by induction over the commands, and no other step does. -/
theorem argKeepsItsValue : Obligations.ArgKeepsItsValue := by
  refine ⟨fun s v hv => ⟨?_, ?_⟩, fun s t is => execAll_keeps_arg, fun s t h => (step_arg_cases h).resolve_left⟩
  · rw [writePort_arg, exactWord_of_lt hv]
  · rw [readPort_arg, BitVec.toNat_ofNat, Nat.mod_eq_of_lt hv]

/-! ### RES (R66) -/

theorem readPort_res (s : State) : readPort .res .word s = .next (some s.res.toNat, s) := rfl

/-- Settles O37: a display command writes FB and the cursor at most, or records a fault. -/
theorem resIsReadWithoutSideEffect : Obligations.ResIsReadWithoutSideEffect := by
  refine ⟨readPort_res, fun s t i hi h => ?_⟩
  rcases exec_frame h with ⟨_, hd⟩ | ⟨_, rfl, _⟩ | ⟨_, _, _, _, rfl⟩ | ⟨_, _, _, _, _, rfl⟩
  · rw [hd]
  · cases hi
  · rfl
  · rfl

/-! ### Assignments, jumps and returns (R76) -/

/-- Settles O55, statement by statement. -/
theorem hostControlTouchesNoBlockState : Obligations.HostControlTouchesNoBlockState := by
  intro s
  refine ⟨fun d e => rfl, fun d e k => s.temp_setTemp d k e, fun l => rfl, fun c l hc => ?_, fun c l hc => ?_,
    fun e => ⟨_, rfl, ?_, rfl, rfl⟩⟩
  · rw [runStmt, if_pos hc]
  · rw [runStmt, if_neg (Bool.eq_false_iff.mp hc), State.advance]
  · exact decide_eq_true (Nat.le_refl s.program.length)

end Sys2Proof.Machine

/-!
The family 40_display.md: CLEAR and SCROLL (R81, R86, R87, R90), PUTC (R82 to R85, R92), and the cursor registers (R88, R89).
-/

namespace Sys2Proof.Machine

/-! ### CLEAR (R86) -/

theorem read_blankScreen (attr : Byte) {o : Nat} (ho : o < 4000) :
    Memory.read (blankCells attr 0 numCells) o = .val (if o % 2 = 0 then chNUL else attr) := by
  rw [Memory.read, get_blankCells, if_pos (by simp only [numCells_eq]; omega), Nat.sub_zero]

/-- The state that CLEAR leaves. -/
def State.cleared (s : State) : State := { s with fb := blankCells s.cfg.defaultAttr 0 numCells }.setCur 0

theorem exec_clear (s : State) : exec .clear s = .next s.cleared := rfl

theorem State.fbByte_cleared (s : State) {o : Nat} (ho : o < 4000) :
    s.cleared.fbByte o = .val (if o % 2 = 0 then chNUL else s.cfg.defaultAttr) :=
  (if_pos ho).trans (read_blankScreen _ ho)

/-- Settles O7: the even bytes hold the character, the odd ones the colour. -/
theorem clearBlanksEveryCell : Obligations.ClearBlanksEveryCell := by
  refine fun s => ⟨s.cleared, exec_clear s, fun i hi => ⟨?_, ?_⟩, rfl, rfl, rfl, rfl⟩
  · rw [s.fbByte_cleared (by omega), if_pos (by omega)]
  · rw [s.fbByte_cleared (by omega), if_neg (by omega)]

/-! ### SCROLL (R81, R87) -/

theorem exec_scroll (s : State) : exec .scroll s = .next s.scrollCore := rfl

theorem State.fbByte_scrollCore_above (s : State) {o : Nat} (ho : o < 3840) :
    s.scrollCore.fbByte o = s.fbByte (o + 160) :=
  (s.fbByte_scrollCore o).trans (if_pos ho)

theorem State.fbByte_scrollCore_lastRow (s : State) {k : Nat} (hk : k < 80) :
    s.scrollCore.fbByte (3840 + 2 * k) = .val 0x00 ∧ s.scrollCore.fbByte (3840 + 2 * k + 1) = .val s.cfg.defaultAttr := by
  simp only [s.fbByte_scrollCore, lastRowOff_eq, fbSize_eq]
  constructor
  · rw [if_neg (by omega), if_pos (by omega), if_pos (by omega)]
  · rw [if_neg (by omega), if_pos (by omega), if_neg (by omega)]

/-- Settles O8: the rows above the last, then the last. -/
theorem scrollMovesEveryRowUp : Obligations.ScrollMovesEveryRowUp := fun s =>
  ⟨s.scrollCore, exec_scroll s, fun _ => s.fbByte_scrollCore_above, fun _ => s.fbByte_scrollCore_lastRow, s.cur_scrollCore,
    onlyDisplayChanged_scrollCore s⟩

/-! ### The copy loops of R81 in the two orders (R90) -/

/-- Top to bottom, every row above the last ends with the old row below it: after n rows the copies are those in rows 0 to n - 1, and
row n + 1, copied next, is still the old one. -/
theorem copyRowsTopDown_spec {m : List Host.Cell} (hw : Memory.wf m = true) :
    Memory.wf (copyRowsTopDown m) = true ∧
      ∀ o, Memory.read (copyRowsTopDown m) o = if o < 3840 then Memory.read m (o + 160) else Memory.read m o := by
  unfold copyRowsTopDown
  simp only [rows_eq]
  apply foldl_range_induct _ 24 (fun n x => Memory.wf x = true ∧
    ∀ o, Memory.read x o = if o < n * 160 then Memory.read m (o + 160) else Memory.read m o)
  · exact ⟨hw, fun o => by rw [if_neg (by omega)]⟩
  · rintro n x hn ⟨hx, hread⟩
    obtain ⟨hwf, hcopy⟩ := copyRowUp_spec (r := n + 1) (by omega) (by omega) hx
    refine ⟨hwf, fun o => ?_⟩
    rw [hcopy, Nat.add_sub_cancel]
    by_cases hrow : n * 160 ≤ o ∧ o < n * 160 + 160
    · rw [if_pos hrow, hread, if_neg (by omega), if_pos (by omega)]
    · rw [if_neg hrow, hread]
      by_cases hdone : o < n * 160
      · rw [if_pos hdone, if_pos (by omega)]
      · rw [if_neg hdone, if_neg (by omega)]

/-- Bottom to top, every row above the last ends with the old last row: after n rows it stands in the n rows above the last, and the
topmost of these is the one copied next. -/
theorem copyRowsBottomUp_spec {m : List Host.Cell} (hw : Memory.wf m = true) :
    Memory.wf (copyRowsBottomUp m) = true ∧
      ∀ o, o < 3840 → Memory.read (copyRowsBottomUp m) o = Memory.read m (3840 + o % 160) := by
  have loop : Memory.wf (copyRowsBottomUp m) = true ∧ ∀ o, Memory.read (copyRowsBottomUp m) o =
      if 3840 ≤ o + 24 * 160 ∧ o < 3840 then Memory.read m (3840 + o % 160) else Memory.read m o := by
    rw [copyRowsBottomUp, show rows - 1 = 24 from rfl]
    apply foldl_range_induct _ 24 (fun n x => Memory.wf x = true ∧ ∀ o, Memory.read x o =
      if 3840 ≤ o + n * 160 ∧ o < 3840 then Memory.read m (3840 + o % 160) else Memory.read m o)
    · exact ⟨hw, fun o => by rw [if_neg (by omega)]⟩
    · rintro n x hn ⟨hx, hread⟩
      obtain ⟨hwf, hcopy⟩ := copyRowUp_spec (r := 24 - n) (by omega) (by omega) hx
      refine ⟨hwf, fun o => ?_⟩
      rw [hcopy]
      by_cases hrow : (24 - n - 1) * 160 ≤ o ∧ o < (24 - n - 1) * 160 + 160
      · rw [if_pos hrow, if_pos (by omega), hread]
        by_cases hcopied : o + 160 < 3840
        · rw [if_pos (by omega), Nat.add_mod_right]
        · rw [if_neg (by omega), show o + 160 = 3840 + o % 160 by omega]
      · rw [if_neg hrow, hread]
        by_cases hdone : 3840 ≤ o + n * 160 ∧ o < 3840
        · rw [if_pos hdone, if_pos (by omega)]
        · rw [if_neg hdone, if_neg (by omega)]
  obtain ⟨hwf, hread⟩ := loop
  exact ⟨hwf, fun o ho => (hread o).trans (if_pos (by omega))⟩

theorem scrolledRows_eq_scrolledByLoops (attr : Byte) {m : List Host.Cell} (hw : Memory.wf m = true) :
    scrolledRows attr m = scrolledByLoops attr m := by
  obtain ⟨hcopied, hcopy⟩ := copyRowsTopDown_spec hw
  obtain ⟨hblanked, hblank⟩ := blankLastRow_spec attr hcopied
  refine Memory.ext (Memory.wf_scrolledRows attr hw) hblanked fun o => ?_
  rw [read_scrolledRows, scrolledByLoops, hblank]
  simp only [lastRowOff_eq, fbSize_eq, rowBytes_eq]
  by_cases hrows : o < 3840
  · rw [if_pos hrows, if_neg (by omega), hcopy, if_pos hrows]
  · rw [if_neg hrows]
    by_cases hlast : o < 4000
    · rw [if_pos hlast, if_pos (show 3840 ≤ o ∧ o < 4000 by omega)]
    · rw [if_neg hlast, if_neg (by omega), hcopy, if_neg hrows, Memory.read_of_fbSize_le hw (by rw [fbSize_eq]; omega)]

/-- Settles O9: the closed form and the loops read alike at every offset. -/
theorem scrollIsTheTopToBottomCopy : Obligations.ScrollIsTheTopToBottomCopy := fun s hw =>
  ⟨s.scrollCore, exec_scroll s, scrolledRows_eq_scrolledByLoops s.cfg.defaultAttr hw⟩

theorem read_scrolledBottomUp (attr : Byte) {m : List Host.Cell} (hw : Memory.wf m = true) {o : Nat} (ho : o < 3840) :
    Memory.read (scrolledBottomUp attr m) o = Memory.read m (3840 + o % 160) := by
  obtain ⟨hcopied, hcopy⟩ := copyRowsBottomUp_spec hw
  obtain ⟨-, hblank⟩ := blankLastRow_spec attr hcopied
  rw [scrolledBottomUp, hblank, if_neg (by omega), hcopy o ho]

/-- Settles O10: the byte at `o` is found one row up after SCROLL, where the other order leaves the last row's byte. -/
theorem scrollIsNotTheBottomToTopCopy : Obligations.ScrollIsNotTheBottomToTopCopy := by
  rintro s hw ⟨o, hlo, hhi, hne⟩
  refine ⟨s.scrollCore, exec_scroll s, fun heq => hne ?_⟩
  have hup : o - 160 + 160 = o := Nat.sub_add_cancel hlo
  have hcol : (o - 160) % 160 = o % 160 := by omega
  calc s.fbByte o
      = s.scrollCore.fbByte (o - 160) := by rw [s.fbByte_scrollCore_above (by omega), hup]
    _ = Memory.read s.scrollCore.fb (o - 160) := if_pos (by rw [fbSize_eq]; omega)
    _ = Memory.read s.fb (3840 + o % 160) := by rw [heq, read_scrolledBottomUp _ hw (by omega), hcol]
    _ = s.fbByte (3840 + o % 160) := (if_pos (by rw [fbSize_eq]; omega)).symm

/-! ### PUTC, case by case (R82 to R85) -/

theorem cellOf_two_mul (c : Nat) : cellOf (2 * c) = c := Nat.mul_div_cancel_left c Nat.two_pos

theorem State.cur_of_bot {s : State} (h : s.curHi = .bot ∨ s.curLo = .bot) : s.cur = none := by
  unfold State.cur
  split
  · rename_i hhi hlo
    rw [hhi, hlo] at h
    simp at h
  · rfl

theorem exec_putc_uninit (attr sym : Byte) {s : State} (h : s.cur = none) :
    exec (.putc attr sym) s = .next (s.recordFault .uninitCursor) := by
  simp only [exec, execPutc, h]

theorem exec_putc_newline (attr : Byte) {s : State} {c : Nat} (hc : s.cur = some c) :
    exec (.putc attr chNL) s = .next (s.putNewline (2 * c)) := by
  simp only [exec, execPutc, hc, if_true]

theorem exec_putc_backspace (attr : Byte) {s : State} {c : Nat} (hc : s.cur = some c) :
    exec (.putc attr chBS) s = .next (s.putBackspace (2 * c) attr) := by
  simp only [exec, execPutc, hc, if_true]
  rw [if_neg (by decide)]

theorem isGlyph_iff (sym : Byte) : isGlyph sym = true ↔ sym ≠ chNL ∧ sym ≠ chBS := by
  simp only [isGlyph, Bool.and_eq_true, bne_iff_ne]

theorem exec_putc_glyph (attr : Byte) {sym : Byte} (hg : isGlyph sym = true) {s : State} {c : Nat} (hc : s.cur = some c) :
    exec (.putc attr sym) s = .next (s.putGlyph (2 * c) sym attr) := by
  obtain ⟨hnl, hbs⟩ := (isGlyph_iff sym).mp hg
  simp only [exec, execPutc, hc, if_neg hnl, if_neg hbs]

/-- Settles O14: with either half ⊥ CUR is not defined. -/
theorem putcWithUndefinedCursorFaults : Obligations.PutcWithUndefinedCursorFaults := fun _ attr sym h =>
  exec_putc_uninit attr sym (State.cur_of_bot h)

/-! ### Glyphs (R84) -/

theorem State.putGlyph_on_surface (s : State) (sym attr : Byte) {c : Nat} (h : c < 2000) :
    s.putGlyph (2 * c) sym attr = (s.setCellAt (2 * c) sym attr).setCur (c + 1) := by
  rw [State.putGlyph, if_neg (by rw [fbSize_eq]; omega), State.writeGlyph, cellOf_two_mul]

theorem State.putGlyph_past_surface (s : State) (sym attr : Byte) {c : Nat} (h : 2000 ≤ c) :
    s.putGlyph (2 * c) sym attr = (s.scrollCore.setCellAt 3840 sym attr).setCur 1921 := by
  rw [State.putGlyph, if_pos (by rw [fbSize_eq]; omega)]
  rfl

theorem State.fbByte_setCellAt_ne (s : State) {o o' : Nat} (ch a : Byte) (ho : o + 1 < fbSize) (hchar : o' ≠ o)
    (hattr : o' ≠ o + 1) : (s.setCellAt o ch a).fbByte o' = s.fbByte o' := by
  rw [s.fbByte_setCellAt o o' ch a ho, if_neg hattr, if_neg hchar]

/-- Settles O11: the glyph's cell is written in place, or after a scroll. -/
theorem putcGlyphWritesAndAdvances : Obligations.PutcGlyphWritesAndAdvances := by
  intro s attr sym c hc hg
  have hexec := exec_putc_glyph attr hg hc
  constructor
  · intro h
    have hfit : 2 * c + 1 < fbSize := by rw [fbSize_eq]; omega
    rw [s.putGlyph_on_surface sym attr h] at hexec
    exact ⟨_, hexec, s.fbByte_setCellAt_char _ _ hfit, s.fbByte_setCellAt_attr _ _ hfit,
      fun o hchar hattr => s.fbByte_setCellAt_ne _ _ hfit hchar hattr, State.cur_setCur _ (by omega), rfl⟩
  · intro h
    have hfit : 3840 + 1 < fbSize := by decide
    have frame {o : Nat} (hchar : o ≠ 3840) (hattr : o ≠ 3841) :
        (s.scrollCore.setCellAt 3840 sym attr).fbByte o = s.scrollCore.fbByte o :=
      State.fbByte_setCellAt_ne _ _ _ hfit hchar hattr
    rw [s.putGlyph_past_surface sym attr h] at hexec
    refine ⟨_, hexec, fun o ho => ?_, State.fbByte_setCellAt_char _ _ _ hfit, State.fbByte_setCellAt_attr _ _ _ hfit,
      fun k hk hk' => ?_, rfl, rfl⟩
    · exact (frame (by omega) (by omega)).trans (s.fbByte_scrollCore_above ho)
    · obtain ⟨hchar, hattr⟩ := s.fbByte_scrollCore_lastRow hk'
      exact ⟨(frame (by omega) (by omega)).trans hchar, (frame (by omega) (by omega)).trans hattr⟩

/-- Settles O17, by induction over the glyphs: the first one's cell lies below those of the rest. -/
theorem glyphsFillCellsInOrder : Obligations.GlyphsFillCellsInOrder := by
  intro gs
  induction gs with
  | nil => exact fun s c hc _ _ => ⟨s, rfl, hc, nofun, fun _ _ => rfl, rfl⟩
  | cons g gs ih =>
    intro s c hc hroom hglyphs
    rw [List.length_cons] at hroom ⊢
    obtain ⟨u, hexec, hchar, hattr, hother, hcur, hframe⟩ :=
      (putcGlyphWritesAndAdvances s g.1 g.2 c hc (hglyphs g List.mem_cons_self)).1 (by omega)
    obtain ⟨t, hrest, hcur', hcells, hother', hframe'⟩ :=
      ih u (c + 1) hcur (by omega) fun g' hg' => hglyphs g' (List.mem_cons_of_mem g hg')
    refine ⟨t, ?_, by rw [hcur']; congr 1; omega, fun n g' hg' => ?_, fun o ho => ?_, onlyDisplayChanged_trans hframe hframe'⟩
    · rw [putcAll, List.map_cons, execAll, hexec, andThen_next]
      exact hrest
    · cases n with
      | zero =>
        cases hg'
        exact ⟨(hother' _ (by omega)).trans hchar, (hother' _ (by omega)).trans hattr⟩
      | succ n =>
        rw [show c + (n + 1) = c + 1 + n by omega]
        exact hcells n g' hg'
    · exact (hother' o (by omega)).trans (hother o (by omega) (by omega))

/-! ### Newline (R83) -/

theorem State.putNewline_above (s : State) {c : Nat} (h : c < 1920) :
    s.putNewline (2 * c) = s.setCur ((c / 80 + 1) * 80) := by
  rw [State.putNewline, if_neg (by rw [lastRowOff_eq]; omega), rowOf, rowBytes_eq, cols_eq, show 2 * c / 160 = c / 80 by omega]

theorem State.putNewline_last (s : State) {c : Nat} (h : 1920 ≤ c) : s.putNewline (2 * c) = s.scrollCore :=
  if_pos (by rw [lastRowOff_eq]; omega)

/-- Settles O12: only the cursor moves, or the screen scrolls as SCROLL does it. -/
theorem putcNewlineMovesOrScrolls : Obligations.PutcNewlineMovesOrScrolls := by
  intro s attr c hc
  have hexec := exec_putc_newline attr hc
  constructor
  · intro h
    rw [s.putNewline_above h] at hexec
    exact ⟨_, hexec, fun o => rfl, State.cur_setCur _ (by omega), rfl⟩
  · intro h
    rw [s.putNewline_last h, ← exec_scroll] at hexec
    rw [hexec]
    exact scrollMovesEveryRowUp s

/-! ### Backspace (R85) -/

theorem State.putBackspace_start (s : State) (attr : Byte) : s.putBackspace (2 * 0) attr = s := if_pos (by decide)

theorem State.putBackspace_on_surface (s : State) (attr : Byte) {c : Nat} (h : c < 2000) :
    s.putBackspace (2 * (c + 1)) attr = (s.setCur c).setCellAt (2 * c) chSP attr := by
  have htarget : 2 * (c + 1) - cellBytes = 2 * c := Nat.add_sub_cancel ..
  rw [State.putBackspace, if_neg (by rw [cellBytes_eq]; omega), htarget, if_neg (by rw [fbSize_eq]; omega), cellOf_two_mul]

theorem State.putBackspace_past_surface (s : State) (attr : Byte) {c : Nat} (h : 2000 < c) :
    s.putBackspace (2 * c) attr = s.recordFault (.surfaceRange (2 * c - 2)) := by
  rw [State.putBackspace, if_neg (by rw [cellBytes_eq]; omega), if_pos (by rw [fbSize_eq, cellBytes_eq]; omega)]

/-- Settles O13: at the start, on the surface and past it. -/
theorem putcBackspaceErasesOrFaults : Obligations.PutcBackspaceErasesOrFaults := by
  intro s attr c hc
  have hexec := exec_putc_backspace attr hc
  refine ⟨?_, fun hlo hhi => ?_, fun h => ?_⟩
  · rintro rfl
    rwa [s.putBackspace_start attr] at hexec
  · obtain ⟨c, rfl⟩ : ∃ d, c = d + 1 := ⟨c - 1, by omega⟩
    have hfit : 2 * c + 1 < fbSize := by rw [fbSize_eq]; omega
    rw [s.putBackspace_on_surface attr (by omega)] at hexec
    exact ⟨_, hexec, State.fbByte_setCellAt_char _ _ _ hfit, State.fbByte_setCellAt_attr _ _ _ hfit,
      fun o hchar hattr => State.fbByte_setCellAt_ne _ _ _ hfit hchar hattr, s.cur_setCur (by omega), rfl⟩
  · rw [s.putBackspace_past_surface attr h] at hexec
    exact hexec

/-- Settles O18: the backspace's target is the cell that the glyph was written in. -/
theorem backspaceUndoesAGlyph : Obligations.BackspaceUndoesAGlyph := by
  intro s a a' sym c hc hlt hg
  obtain ⟨u, hglyph, -, -, hother, hcur, hframe⟩ := (putcGlyphWritesAndAdvances s a sym c hc hg).1 hlt
  obtain ⟨-, hback, -⟩ := putcBackspaceErasesOrFaults u a' (c + 1) hcur
  obtain ⟨t, hexec, hchar, hattr, hother', hcur', hframe'⟩ := hback (by omega) hlt
  refine ⟨t, ?_, hchar, hattr, fun o ho ho' => (hother' o ho ho').trans (hother o ho ho'), hcur',
    onlyDisplayChanged_trans hframe hframe'⟩
  simp only [execAll, hglyph, andThen_next, hexec]

/-! ### Where PUTC faults, and where display commands leave the cursor (R91, R92) -/

/-- The two halves of O15 for a PUTC that writes FB and the cursor at most. -/
theorem noFault_of_onlyDisplayChanged {s t : State} {P : Prop} (h : onlyDisplayChanged s t) (hP : P) :
    (t.faults = s.faults ↔ P) ∧ (t.faults = s.faults → onlyDisplayChanged s t) :=
  ⟨iff_of_true (congrArg State.faults h :) hP, fun _ => h⟩

/-- The two halves of O15 for a PUTC that records a fault. -/
theorem fault_of_recordFault {s : State} {k : FaultKind} {P : Prop} (hP : ¬P) :
    ((s.recordFault k).faults = s.faults ↔ P) ∧
      ((s.recordFault k).faults = s.faults → onlyDisplayChanged s (s.recordFault k)) :=
  ⟨iff_of_false (s.recordFault_faults_ne k) hP, fun h => absurd h (s.recordFault_faults_ne k)⟩

/-- Settles O15, by the cases of `execPutc_cases`: two of them record a fault. -/
theorem putcCompletesExactlyWhen : Obligations.PutcCompletesExactlyWhen := by
  intro s attr sym
  rcases execPutc_cases attr sym s with ⟨hnone, he⟩ | ⟨c, hc, hcase⟩
  · refine ⟨_, he, fault_of_recordFault ?_⟩
    rintro ⟨c, hc, -⟩
    cases hnone.symm.trans hc
  · have hcan (hbs : sym = 0x08 → c ≤ 2000) : ∃ c, s.cur = some c ∧ (sym = 0x08 → c ≤ 2000) := ⟨c, hc, hbs⟩
    rcases hcase with ⟨rfl, _, he⟩ | ⟨rfl, _, he⟩ | ⟨_, hzero, he⟩ | ⟨_, _, hle, he⟩ | ⟨hbs, hlt, he⟩ | ⟨_, hbs, _, he⟩ |
      ⟨_, hbs, _, he⟩
    · exact ⟨_, he, noFault_of_onlyDisplayChanged rfl (hcan fun h => absurd h (by decide))⟩
    · exact ⟨_, he, noFault_of_onlyDisplayChanged rfl (hcan fun h => absurd h (by decide))⟩
    · exact ⟨_, he, noFault_of_onlyDisplayChanged rfl (hcan fun _ => by omega)⟩
    · exact ⟨_, he, noFault_of_onlyDisplayChanged rfl (hcan fun _ => hle)⟩
    · refine ⟨_, he, fault_of_recordFault ?_⟩
      rintro ⟨d, hd, hle⟩
      cases hc.symm.trans hd
      exact Nat.not_le_of_lt hlt (hle hbs)
    · exact ⟨_, he, noFault_of_onlyDisplayChanged rfl (hcan fun h => absurd h hbs)⟩
    · exact ⟨_, he, noFault_of_onlyDisplayChanged rfl (hcan fun h => absurd h hbs)⟩

/-- Every byte that `t` lists off the surface was listed by `s` (R92). -/
def State.keepsOffSurface (s t : State) : Prop := ∀ e ∈ t.fb, fbSize ≤ e.1 → e ∈ s.fb

theorem State.keepsOffSurface_of_fb {s t : State} (h : t.fb = s.fb) : s.keepsOffSurface t := fun _ he _ => h ▸ he

theorem State.keepsOffSurface_of_lt {s t : State} (h : ∀ e ∈ t.fb, e.1 < fbSize) : s.keepsOffSurface t := fun e he hoff =>
  absurd (h e he) (Nat.not_lt_of_le hoff)

/-- A cell written on the surface writes no byte off it. -/
theorem State.keepsOffSurface_setCellAt {s t : State} (h : s.keepsOffSurface t) {o : Nat} (ch a : Byte) (ho : o + 1 < fbSize) :
    s.keepsOffSurface (t.setCellAt o ch a) := by
  intro e he hoff
  rcases Sparse.mem_put he with rfl | he
  · exact absurd ho (Nat.not_lt_of_le hoff)
  · rcases Sparse.mem_put he with rfl | he
    · exact absurd (Nat.lt_of_succ_lt ho) (Nat.not_lt_of_le hoff)
    · exact h e he hoff

theorem lt_fbSize_of_mem_blankScreen {attr : Byte} {e : Host.Cell} (h : e ∈ blankCells attr 0 numCells) : e.1 < fbSize := by
  obtain ⟨-, hlt⟩ := key_lt_of_mem_blankCells h
  rw [numCells_eq] at hlt
  rw [fbSize_eq]
  omega

theorem lt_fbSize_of_mem_scrolledRows {attr : Byte} {m : List Host.Cell} {e : Host.Cell} (h : e ∈ scrolledRows attr m) :
    e.1 < fbSize := by
  rcases List.mem_append.mp h with h | h
  · simp only [List.mem_map, List.mem_filter, Bool.and_eq_true, decide_eq_true_eq] at h
    obtain ⟨c, ⟨-, -, hlt⟩, rfl⟩ := h
    exact Nat.lt_of_le_of_lt (Nat.sub_le ..) hlt
  · obtain ⟨-, hlt⟩ := key_lt_of_mem_blankCells h
    exact hlt

theorem State.keepsOffSurface_scrollCore (s : State) : s.keepsOffSurface s.scrollCore :=
  State.keepsOffSurface_of_lt fun _ => lt_fbSize_of_mem_scrolledRows

theorem State.cursorOnSurface_of_cur {s : State} {c : Nat} (h : s.cur = some c) (hc : c ≤ 2000) : s.cursorOnSurface :=
  ⟨c, h, by rw [fbSize_eq]; omega⟩

/-- R92 for PUTC: every cursor that it sets is at most 2000, and every cell that it writes lies on the surface. -/
theorem execPutc_keeps_surface {attr sym : Byte} {s t : State} (h : execPutc attr sym s = .next t) (hf : t.faults = s.faults) :
    t.cursorOnSurface ∧ s.keepsOffSurface t := by
  have onSurface {u : State} {v : Nat} (hv : v ≤ 2000) : (u.setCur v).cursorOnSurface :=
    State.cursorOnSurface_of_cur (u.cur_setCur (by omega)) hv
  rcases execPutc_cases attr sym s with ⟨_, he⟩ | ⟨c, hc, ⟨_, hlt, he⟩ | ⟨_, _, he⟩ | ⟨_, hzero, he⟩ | ⟨_, _, hle, he⟩ |
    ⟨_, _, he⟩ | ⟨_, _, hlt, he⟩ | ⟨_, _, _, he⟩⟩ <;> rw [he] at h <;> cases h
  · exact absurd hf (s.recordFault_faults_ne _)
  · exact ⟨onSurface (by omega), State.keepsOffSurface_of_fb rfl⟩
  · exact ⟨State.cursorOnSurface_of_cur s.cur_scrollCore (by decide), s.keepsOffSurface_scrollCore⟩
  · exact ⟨State.cursorOnSurface_of_cur hc (by omega), State.keepsOffSurface_of_fb rfl⟩
  · exact ⟨State.cursorOnSurface_of_cur (s.cur_setCur (by omega)) (by omega),
      State.keepsOffSurface_setCellAt (State.keepsOffSurface_of_fb rfl) _ _ (by rw [fbSize_eq]; omega)⟩
  · exact absurd hf (s.recordFault_faults_ne _)
  · exact ⟨onSurface (by rw [cellOf_two_mul]; omega),
      State.keepsOffSurface_setCellAt (State.keepsOffSurface_of_fb rfl) _ _ (by rw [fbSize_eq]; omega)⟩
  · exact ⟨onSurface (by decide), State.keepsOffSurface_setCellAt s.keepsOffSurface_scrollCore _ _ (by decide)⟩

/-- Settles O16, command by command. -/
theorem displayCommandsKeepTheCursorOnTheSurface : Obligations.DisplayCommandsKeepTheCursorOnTheSurface := by
  intro s t i hi h hf
  cases i with
  | putc attr sym => exact execPutc_keeps_surface h hf
  | clear =>
    cases h
    exact ⟨State.cursorOnSurface_of_cur (c := 0) rfl (by decide), State.keepsOffSurface_of_lt fun _ => lt_fbSize_of_mem_blankScreen⟩
  | scroll =>
    cases h
    exact ⟨State.cursorOnSurface_of_cur s.cur_scrollCore (by decide), s.keepsOffSurface_scrollCore⟩
  | translate k => cases hi

/-! ### The index port (R88) -/

theorem readMByte_bot {x : MByte} (h : x = .bot) (l : Location) (s : State) :
    readMByte x l s = .next (none, s.recordFault (.uninitRead l)) := by
  rw [h, readMByte]

theorem readMByte_val {x : MByte} {b : Byte} (h : x = .val b) (l : Location) (s : State) :
    readMByte x l s = .next (some b.toNat, s) := by
  rw [h, readMByte]

theorem writePort_crtcIndex_toNat (b : Byte) (s : State) :
    writePort .crtcIndex .byte b.toNat s = .next { s with crtcIdx := .val b } := by
  rw [writePort_crtcIndex, exactByte_toNat]

theorem exec_keeps_crtcIdx {i : Instr} {s t : State} (h : exec i s = .next t) : t.crtcIdx = s.crtcIdx := by
  rcases exec_frame h with ⟨_, hd⟩ | ⟨_, _, hd⟩ | ⟨_, _, _, _, rfl⟩ | ⟨_, _, _, _, _, rfl⟩
  · rw [hd]
  · rw [hd]
  · rfl
  · rfl

@[simp] theorem State.deliver_crtcIdx (s : State) (k : Byte) : (s.deliver k).crtcIdx = s.crtcIdx := by
  rw [s.deliver_frame k]

/-- Of the effects of a step, only a host byte write of the index port reaches CRTC_IDX. -/
theorem step_crtcIdx_cases {s t : State} (h : step s = .next t) :
    t.crtcIdx = s.crtcIdx ∨ ∃ p v, s.executes (.out .byte p v) ∧ p.resolve s = .next .crtcIndex := by
  rcases step_effects h with ⟨k, _, rfl⟩ | ⟨i, u, _, hexec, _, rfl⟩ | ⟨_, _, _, _, _, rfl | rfl⟩ | ⟨_, _, _, _, _, rfl⟩ |
    ⟨_, _, _, _, hwindow⟩ | ⟨p, v, hx, hp, _⟩ | ⟨_, _, _, _, _, rfl⟩ | hown | ⟨_, _, rfl⟩
  · exact .inl (s.takeTurn.deliver_crtcIdx k)
  · exact .inl (exec_keeps_crtcIdx hexec :)
  · exact .inl rfl
  · exact .inl rfl
  · exact .inl rfl
  · exact .inl (congrArg State.crtcIdx hwindow :)
  · exact .inr ⟨p, v, hx, hp⟩
  · exact .inl rfl
  · exact .inl (congrArg State.crtcIdx hown :)
  · exact .inl rfl

/-- Settles O30: the port's write and read, and that nothing else reaches CRTC_IDX. -/
theorem indexPortHoldsItsValue : Obligations.IndexPortHoldsItsValue := by
  refine ⟨fun s v => ⟨writePort_crtcIndex_toNat v s, rfl⟩, fun s hbot => readMByte_bot hbot _ s,
    fun _ _ _ => exec_keeps_crtcIdx, fun _ _ h => (step_crtcIdx_cases h).resolve_left⟩

/-! ### The cursor data port (R89) -/

theorem writePort_crtcData_toNat (b : Byte) (s : State) : writePort .crtcData .byte b.toNat s = writeCursorData b s := by
  rw [writePort_crtcData, exactByte_toNat]

theorem readPort_crtcData (s : State) : readPort .crtcData .byte s = readCursorData s := rfl

section
variable {s : State}

theorem writePort_crtcData_bot (b : Byte) (h : s.crtcIdx = .bot) :
    writePort .crtcData .byte b.toNat s = .next (s.recordFault .uninitIndex) := by
  simp only [writePort_crtcData_toNat, writeCursorData, h]

theorem writePort_crtcData_hi (b : Byte) (h : s.crtcIdx = .val 14) :
    writePort .crtcData .byte b.toNat s = .next { s with curHi := .val b } := by
  simp only [writePort_crtcData_toNat, writeCursorData, h, if_true]

theorem writePort_crtcData_lo (b : Byte) (h : s.crtcIdx = .val 15) :
    writePort .crtcData .byte b.toNat s = .next { s with curLo := .val b } := by
  simp only [writePort_crtcData_toNat, writeCursorData, h, if_true]
  exact if_neg (by decide)

theorem writePort_crtcData_other (b : Byte) {i : Byte} (h : s.crtcIdx = .val i) (hhi : i ≠ 14) (hlo : i ≠ 15) :
    writePort .crtcData .byte b.toNat s = .refused .unmodelledIndex := by
  simp only [writePort_crtcData_toNat, writeCursorData, h, if_neg hhi, if_neg hlo]

theorem readPort_crtcData_bot (h : s.crtcIdx = .bot) :
    readPort .crtcData .byte s = .next (none, s.recordFault .uninitIndex) := by
  simp only [readPort_crtcData, readCursorData, h]

theorem readPort_crtcData_hi (h : s.crtcIdx = .val 14) : readPort .crtcData .byte s = readMByte s.curHi .curHi s := by
  simp only [readPort_crtcData, readCursorData, h, if_true]

theorem readPort_crtcData_lo (h : s.crtcIdx = .val 15) : readPort .crtcData .byte s = readMByte s.curLo .curLo s := by
  simp only [readPort_crtcData, readCursorData, h, if_true]
  exact if_neg (by decide)

theorem readPort_crtcData_other {i : Byte} (h : s.crtcIdx = .val i) (hhi : i ≠ 14) (hlo : i ≠ 15) :
    readPort .crtcData .byte s = .next (some s.drawn.toNat, s.afterDraw) := by
  simp only [readPort_crtcData, readCursorData, h, if_neg hhi, if_neg hlo]

end

/-- Settles O31, by the index: ⊥, 14, 15 or another. -/
theorem cursorDataPortReachesTheSelectedHalf : Obligations.CursorDataPortReachesTheSelectedHalf := fun s v =>
  ⟨writePort_crtcData_bot v, writePort_crtcData_hi v, writePort_crtcData_lo v, fun _ => writePort_crtcData_other v,
    readPort_crtcData_bot,
    fun hi hhalf => (readPort_crtcData_hi hi).trans (readMByte_bot hhalf _ s),
    fun _ hi hhalf => (readPort_crtcData_hi hi).trans (readMByte_val hhalf _ s),
    fun hi hhalf => (readPort_crtcData_lo hi).trans (readMByte_bot hhalf _ s),
    fun _ hi hhalf => (readPort_crtcData_lo hi).trans (readMByte_val hhalf _ s),
    fun _ hi hhi hlo => ⟨s.drawn, readPort_crtcData_other hi hhi hlo⟩⟩

/-! ### Writing and reading back the cursor (R132 to R134, R174) -/

theorem toNat_upperByteOf {v : Nat} (hv : v < 65536) : (upperByteOf v).toNat = v / 256 := by
  rw [upperByteOf, BitVec.toNat_ofNat]
  omega

theorem toNat_byteOf (v : Nat) : (byteOf v).toNat = v % 256 := BitVec.toNat_ofNat ..

/-- Settles O32: each pair of writes reaches one half, by way of CRTC_IDX. -/
theorem cursorRegistersRoundTrip : Obligations.CursorRegistersRoundTrip := by
  intro s v hv
  have hhi := toNat_upperByteOf hv
  have hlo := toNat_byteOf v
  rw [← hhi, ← hlo]
  refine ⟨_, _, _, _, _, writePort_crtcIndex_toNat 14 s, writePort_crtcData_hi _ rfl, fun l hl => ?_,
    writePort_crtcIndex_toNat 15 _, writePort_crtcData_lo _ rfl, ?_, rfl, readPort_crtcData_lo rfl,
    writePort_crtcIndex_toNat 14 _, readPort_crtcData_hi rfl⟩
  · simp only [State.cur, hl]
  · simp only [State.cur, toNat_upperByteOf_byteOf hv]

end Sys2Proof.Machine

/-!
The family 41_keyboard.md: the translator (R110 to R117) and TRANSLATE (R118, R119), the two keyboard ports (R106, R107), and the
delivery of a scan code (R109).
-/

namespace Sys2Proof.Machine

/-! ### Scan codes (R108, R110, R111) -/

/-- A scan code is a shift key's by its value modulo 128, at the press and at the release. -/
theorem isShiftCode_baseCode_iff (c : Config) (k : Byte) :
    isShiftCode c (baseCode k) = true ↔ k.toNat % 128 = 0x2A ∨ k.toNat % 128 = c.shiftCodeB.toNat := by
  simp only [isShiftCode_iff, ← BitVec.toNat_inj, toNat_baseCode]
  rfl

theorem isShiftCode_baseCode_of_press {c : Config} {k : Byte} (hpress : k.toNat < 128) (hA : k ≠ shiftCodeA)
    (hB : k ≠ c.shiftCodeB) : isShiftCode c (baseCode k) = false := by
  rw [baseCode_of_press hpress, Bool.eq_false_iff, ne_eq, isShiftCode_iff]
  exact not_or.mpr ⟨hA, hB⟩

theorem shiftAfterShiftKey_eq (k : Byte) : shiftAfterShiftKey k = decide (k.toNat < 128) := by
  simp only [shiftAfterShiftKey, isRelease_eq, ← decide_not, Nat.not_le]

/-- The release code of a key is its press code with s[7] set (R108): the base code is the press code, and it is a release. -/
theorem baseCode_isRelease_of_release {b : Byte} (h : b.toNat < 128) :
    baseCode (b ||| 0x80) = b ∧ isRelease (b ||| 0x80) = true := by
  revert b; decide +kernel

/-! ### The translator, case by case (R111 to R115) -/

section

variable {c : Config} {k : Byte} (shift : Bool)

theorem translateCode_shiftKey (h : isShiftCode c (baseCode k) = true) :
    translateCode c k shift = (shiftAfterShiftKey k, none) := if_pos h

theorem translateCode_release (hcode : isShiftCode c (baseCode k) = false) (h : 128 ≤ k.toNat) :
    translateCode c k shift = (shift, none) := by
  rw [translateCode, if_neg (Bool.eq_false_iff.mp hcode), isRelease_eq, if_pos (decide_eq_true h)]

/-- The cases that are left for a press of a key other than the shift keys. -/
theorem translateCode_press (hpress : k.toNat < 128) (hA : k ≠ shiftCodeA) (hB : k ≠ c.shiftCodeB) :
    translateCode c k shift =
      if k = c.spaceCode then (shift, some chSP)
      else if printLo ≤ k ∧ k ≤ printHi then
        (shift, if shift then tableEntry c.shifted k else tableEntry c.unshifted k)
      else (shift, none) := by
  have hcode := isShiftCode_baseCode_of_press hpress hA hB
  rw [translateCode, if_neg (Bool.eq_false_iff.mp hcode), isRelease_eq, if_neg (by simpa using hpress)]

theorem translateCode_printable (hlo : 2 ≤ k.toNat) (hhi : k.toNat ≤ 0x35) (hA : k ≠ shiftCodeA) (hB : k ≠ c.shiftCodeB)
    (hspace : k ≠ c.spaceCode) :
    translateCode c k shift = (shift, if shift then tableEntry c.shifted k else tableEntry c.unshifted k) := by
  rw [translateCode_press shift (by omega) hA hB, if_neg hspace, if_pos ⟨hlo, hhi⟩]

theorem translateCode_unprintable (hrange : k.toNat < 2 ∨ 0x35 < k.toNat) (hpress : k.toNat < 128) (hA : k ≠ shiftCodeA)
    (hB : k ≠ c.shiftCodeB) (hspace : k ≠ c.spaceCode) : translateCode c k shift = (shift, none) := by
  have hout : ¬(printLo ≤ k ∧ k ≤ printHi) := fun ⟨hlo, hhi⟩ => hrange.elim (Nat.not_lt.mpr hlo) (Nat.not_lt.mpr hhi)
  rw [translateCode_press shift hpress hA hB, if_neg hspace, if_neg hout]

theorem translateCode_keeps_shift (hcode : isShiftCode c (baseCode k) = false) : (translateCode c k shift).1 = shift :=
  not_ne_iff.mp fun hne => Bool.eq_false_iff.mp hcode (isShiftCode_of_translateCode_ne hne)

end

theorem translateCode_spaceCode {c : Config} (hc : c.valid = true) (shift : Bool) :
    translateCode c c.spaceCode shift = (shift, some chSP) := by
  obtain ⟨hB, hspace, -⟩ := (Config.valid_iff c).mp hc
  obtain ⟨-, -, -, hB⟩ := c.shiftCodeBOk_iff.mp hB
  obtain ⟨-, hle, hA⟩ := c.spaceCodeOk_iff.mp hspace
  rw [translateCode_press shift (by omega) hA hB.symm, if_pos rfl]

/-! ### The tables (R117) -/

theorem tableEntry_of_getElem? {t : List (Option Byte)} {k : Byte} {e : Option Byte} (h : t[k.toNat - 2]? = some e) :
    tableEntry t k = e := congrArg Option.join h

theorem tableEntry_codeOfA {t : List (Option Byte)} {a : Byte} (h : Config.tableOk t a = true) :
    tableEntry t codeOfA = some a := by
  obtain ⟨-, -, hA⟩ := (Config.tableOk_iff t a).mp h
  exact tableEntry_of_getElem? hA

theorem tableEntry_ne_nul {t : List (Option Byte)} {a : Byte} (h : Config.tableOk t a = true) (k : Byte) :
    tableEntry t k ≠ some 0 := by
  obtain ⟨-, hnul, -⟩ := (Config.tableOk_iff t a).mp h
  exact fun he => hnul _ (List.mem_of_getElem? (Option.join_eq_some_iff.mp he)) rfl

theorem translateCode_ne_nul {c : Config} (hc : c.valid = true) (k : Byte) (shift : Bool) :
    (translateCode c k shift).2 ≠ some 0 := by
  obtain ⟨-, -, hunshifted, hshifted, -⟩ := (Config.valid_iff c).mp hc
  unfold translateCode
  split_ifs
  · nofun
  · nofun
  · exact fun h => absurd (Option.some.inj h) (by decide)
  · exact tableEntry_ne_nul hshifted k
  · exact tableEntry_ne_nul hunshifted k
  · nofun

/-! ### TRANSLATE (R118) -/

/-- TRANSLATE writes what the translator answers. -/
theorem exec_translate {s : State} {k : Byte} {shift : Bool} {r : Option Byte}
    (h : translateCode s.cfg k s.shift = (shift, r)) :
    exec (.translate k) s = .next { s with shift := shift, res := resultWord r } := by
  rw [exec, execTranslate, h]

/-- RES.CHAR is the character of a result that has one (10_state.md R28). -/
theorem eq_some_resChar_of_resHas {r : Option Byte} (h : resHas (resultWord r) = true) : r = some (resChar (resultWord r)) := by
  cases r with
  | none => exact absurd h (by decide)
  | some c => rw [resChar_resultWord_some]

/-- SHIFT after a shift key's code does not depend on what it was (R111). -/
theorem shift_of_exec_translate_shiftKey {s t : State} {k : Byte} (h : exec (.translate k) s = .next t)
    (hcode : isShiftCode s.cfg (baseCode k) = true) : t.shift = shiftAfterShiftKey k := by
  rw [exec_translate (translateCode_shiftKey s.shift hcode)] at h
  cases h; rfl

/-- Settles O20, by the translator's first case. -/
theorem shiftKeySetsOrClearsTheLatch : Obligations.ShiftKeySetsOrClearsTheLatch := by
  intro s k hk
  rw [exec_translate (translateCode_shiftKey s.shift ((isShiftCode_baseCode_iff s.cfg k).mpr hk)), shiftAfterShiftKey_eq,
    resultWord_none]

/-- Settles O21, by the translator's second case. -/
theorem otherReleasesGiveNone : Obligations.OtherReleasesGiveNone := by
  intro s k hA hB hrelease
  have hcode : isShiftCode s.cfg (baseCode k) = false :=
    Bool.eq_false_iff.mpr fun h => ((isShiftCode_baseCode_iff s.cfg k).mp h).elim hA hB
  exact exec_translate (translateCode_release s.shift hcode hrelease)

/-- Settles O22: an admitted SPACE_CODE is a press and no shift key's code. -/
theorem spaceBarGivesSpace : Obligations.SpaceBarGivesSpace := fun s =>
  exec_translate (translateCode_spaceCode s.cfg_valid s.shift)

/-- Settles O23, by the table that SHIFT selects. -/
theorem printableCodesAreLookedUp : Obligations.PrintableCodesAreLookedUp := by
  intro s k hlo hhi hA hB hspace
  refine ⟨_, exec_translate (translateCode_printable s.shift hlo hhi hA hB hspace), rfl, fun e he => ?_⟩
  have hentry : (if s.shift then tableEntry s.cfg.shifted k else tableEntry s.cfg.unshifted k) = e := by
    split_ifs at he ⊢
    · exact tableEntry_of_getElem? he
    · exact tableEntry_of_getElem? he
  rw [hentry]
  exact ⟨fun h => h ▸ rfl, fun r h => h ▸ toNat_resultWord_some r⟩

/-- Settles O24, by the translator's last case. -/
theorem otherPressesGiveNone : Obligations.OtherPressesGiveNone :=
  fun s _ hrange hpress hA hB hspace => exec_translate (translateCode_unprintable s.shift hrange hpress hA hB hspace)

/-- Settles O25: the press is looked up, at the entry that R117 fixes; the release is no shift key's. -/
theorem keyAGivesItsLetter : Obligations.KeyAGivesItsLetter := by
  intro s hB hspace
  obtain ⟨-, -, hunshifted, hshifted, -⟩ := (Config.valid_iff s.cfg).mp s.cfg_valid
  constructor
  · rw [exec_translate (translateCode_printable s.shift (by decide) (by decide) (by decide) hB.symm hspace.symm),
      tableEntry_codeOfA hunshifted, tableEntry_codeOfA hshifted]
    split_ifs <;> rfl
  · exact otherReleasesGiveNone s 0x9E (by decide) (fun h => hB (BitVec.eq_of_toNat_eq h.symm)) (by decide)

/-- Settles O26: the last code decides SHIFT if it is a shift key's, and otherwise leaves it. -/
theorem shiftLatchLaws : Obligations.ShiftLatchLaws := by
  refine ⟨fun s a b _ hb _ hpress => ⟨_, rfl, ?_⟩, fun s t k h hcode => ?_, fun s t k h hcode => ?_⟩
  · obtain ⟨hbase, hrelease⟩ := baseCode_isRelease_of_release hpress
    rw [shift_of_exec_translate_shiftKey rfl (hbase.symm ▸ hb), shiftAfterShiftKey, hrelease, Bool.not_true]
  · rw [shift_of_exec_translate_shiftKey h hcode, shiftAfterShiftKey_eq]
  · cases h
    exact translateCode_keeps_shift s.shift hcode

/-- Settles O27: RES.CHAR is what the translator gave, a space or a table's entry. -/
theorem translateNeverReportsNul : Obligations.TranslateNeverReportsNul := by
  intro s t k h hhas
  cases h
  exact fun hnul => translateCode_ne_nul s.cfg_valid k s.shift ((eq_some_resChar_of_resHas hhas).trans (congrArg some hnul))

/-- Settles O19, by the translator's answer. -/
theorem translateWritesShiftAndRes : Obligations.TranslateWritesShiftAndRes := fun s _ =>
  ⟨_, rfl, rfl, rfl, translateCode_keeps_shift s.shift, fun h => congrArg resultWord h,
    fun r h => (congrArg (BitVec.toNat ∘ resultWord) h).trans (toNat_resultWord_some r)⟩

/-! ### Delivery (R109) -/

/-- The step of a state whose next turn is the delivery of `k`. -/
theorem step_of_key {s : State} {k : Byte} (h : s.turn = .key k) : step s = .next (s.takeTurn.deliver k) := by
  rw [step, stepTurn, h]

/-- Settles O35: the delivery finds KBD_OBF as the step found it. -/
theorem deliveryFillsOrIsLost : Obligations.DeliveryFillsOrIsLost := by
  intro s k hturn
  refine ⟨fun hempty => ?_, fun hfull => ?_, rfl⟩
  · rw [step_of_key hturn, State.deliver, State.takeTurn_kbdObf, hempty, if_neg Bool.false_ne_true]
  · rw [step_of_key hturn, State.deliver, State.takeTurn_kbdObf, hfull, if_pos rfl]

/-! ### The keyboard ports (R106, R107) -/

/-- Settles O33: the status byte is KBD_OBF below the upper bits of the draw. -/
theorem keyboardStatusShowsAvailability : Obligations.KeyboardStatusShowsAvailability := by
  intro s
  refine ⟨⟨_, rfl, (statusByte s.drawn s.kbdObf).isLt, ?_⟩, fun v => writePort_of_portRefusal v s rfl⟩
  rw [toNat_statusByte, State.drawn]
  split_ifs <;> omega

theorem readPort_kbdData (s : State) : readPort .kbdData .byte s = readKbdData s := rfl

/-- Settles O34: a pending code or a draw. -/
theorem keyboardDataIsConsumedByItsRead : Obligations.KeyboardDataIsConsumedByItsRead := by
  intro s
  refine ⟨fun hfull => ?_, fun hempty => ⟨s.drawn, ?_⟩, fun v => writePort_of_portRefusal v s rfl⟩
  · rw [readPort_kbdData, readKbdData, if_pos hfull]
  · rw [readPort_kbdData, readKbdData, if_neg (Bool.eq_false_iff.mp hempty), State.afterDraw]

end Sys2Proof.Machine

/-!
The family 60_exceptions.md: the model faults (R151), the refusals (R152), and what recording one does (R153).
-/

namespace Sys2Proof.Machine

/-! ### Where a fault is raised, the step records it (R151) -/

/-- Records of different faults differ. -/
theorem State.recordFault_inj (s : State) {k k' : FaultKind} (h : s.recordFault k = s.recordFault k') : k = k' := by
  have hfaults : s.faults ++ [⟨k, s.pc⟩] = s.faults ++ [⟨k', s.pc⟩] := congrArg State.faults h
  simpa using hfaults

section
variable {s : State} {k : FaultKind}

/-- A command that records a fault at the host's turn is the whole step. -/
theorem step_of_issues_fault {i : Instr} (hi : s.issues i) (h : exec i s.takeTurn = .next (s.takeTurn.recordFault k)) :
    step s = .next (s.takeTurn.recordFault k) := by
  rw [step_of_issues hi, h, andThen_next, State.recordFault_afterAccess]

/-- A port read that returns no value leaves the host's own state. -/
theorem step_of_readsPort_none {q : Port} {u : State} (hr : s.readsPort q) (h : readPort q .byte s.takeTurn = .next (none, u)) :
    step s = .next u := by
  obtain ⟨p, dst, hx, hp⟩ := hr
  rw [step_of_executes hx, runStmt, resolve_takeTurn, hp, andThen_next, h, andThen_next, State.receive_none]

/-- A port write that records a fault, whatever its value, is the whole step. -/
theorem step_of_writesPort_fault {q : Port} (hw : s.writesPort q)
    (h : ∀ v, writePort q .byte v s.takeTurn = .next (s.takeTurn.recordFault k)) :
    step s = .next (s.takeTurn.recordFault k) := by
  obtain ⟨p, v, hx, hp⟩ := hw
  rw [step_of_executes hx, runStmt, resolve_takeTurn, hp, andThen_next, h, andThen_next, State.recordFault_afterAccess]

end

/-- With the lower byte of a word ⊥ the record names it (log entry 16). -/
theorem readFbWord_of_lower_bot {s : State} {o : Nat} (h : s.fbByte o = .bot) :
    readFbWord o s = .next (none, s.recordFault (.uninitRead (.fb o))) := by
  simp only [readFbWord, h]

/-- With only the upper byte of a word ⊥ the record names that one. -/
theorem readFbWord_of_upper_bot {s : State} {o : Nat} (hlo : s.fbByte o ≠ .bot) (hhi : s.fbByte (o + 1) = .bot) :
    readFbWord o s = .next (none, s.recordFault (.uninitRead (.fb (o + 1)))) := by
  cases h : s.fbByte o with
  | bot => exact absurd h hlo
  | val b => simp only [readFbWord, h, hhi]

/-- A window read whose named byte is ⊥ records it: the byte read, or the lower or the upper byte of the word read (20_memory.md R43). -/
theorem step_of_readsFb_bot {s : State} {o : Nat} (hr : s.readsFb o) (hbot : s.fbByte o = .bot) :
    step s = .next (s.takeTurn.recordFault (.uninitRead (.fb o))) := by
  obtain ⟨ho, w, m, dst, hx, haddress⟩ := hr
  suffices hread : readMem (m.address s) w s.takeTurn = .next (none, s.takeTurn.recordFault (.uninitRead (.fb o))) by
    rw [step_of_executes hx, runStmt, address_takeTurn, hread, andThen_next, State.receive_none]
  rcases haddress with ⟨ha, heven⟩ | ⟨ha, rfl, hodd, hlo⟩
  · rw [ha, ← s.takeTurn_cfg]
    cases w with
    | byte => rw [readMem_byte _ ho]; exact readMByte_bot hbot _ _
    | word => rw [readMem_word_even _ ho (heven rfl)]; exact readFbWord_of_lower_bot hbot
  · obtain ⟨e, rfl⟩ : ∃ e, o = e + 1 := ⟨o - 1, by omega⟩
    have ha' : m.address s = s.takeTurn.cfg.fbBase + e := by rw [s.takeTurn_cfg]; omega
    rw [ha', readMem_word_even _ (Nat.lt_of_succ_lt ho) (by omega)]
    exact readFbWord_of_upper_bot hlo hbot

/-- Every line of the table of R151, read from left to right: where `k` is raised, its record is the whole step. -/
theorem step_of_raises {s : State} {k : FaultKind} (h : s.raises k) : step s = .next (s.takeTurn.recordFault k) := by
  match k, h with
  | .uninitCursor, ⟨hcur, attr, sym, hi⟩ => exact step_of_issues_fault hi (exec_putc_uninit attr sym hcur)
  | .uninitRead (.fb o), ⟨hbot, hr⟩ => exact step_of_readsFb_bot hr hbot
  | .uninitRead .curHi, ⟨hbot, hidx, hr⟩ =>
    exact step_of_readsPort_none hr ((readPort_crtcData_hi (s := s.takeTurn) hidx).trans (readMByte_bot hbot _ _))
  | .uninitRead .curLo, ⟨hbot, hidx, hr⟩ =>
    exact step_of_readsPort_none hr ((readPort_crtcData_lo (s := s.takeTurn) hidx).trans (readMByte_bot hbot _ _))
  | .uninitRead .crtcIdx, ⟨hbot, hr⟩ => exact step_of_readsPort_none hr (readMByte_bot hbot _ _)
  | .uninitIndex, ⟨hbot, .inl hr⟩ => exact step_of_readsPort_none hr (readPort_crtcData_bot hbot)
  | .uninitIndex, ⟨hbot, .inr hw⟩ =>
    refine step_of_writesPort_fault hw fun v => ?_
    rw [writePort_crtcData, writeCursorData, s.takeTurn_crtcIdx, hbot]
  | .surfaceRange p, ⟨c, attr, hcur, htarget, hoff, hi⟩ =>
    have hc : 2000 < c := by rw [fbSize_eq] at hoff; omega
    obtain rfl : 2 * c - 2 = p := by omega
    have hexec := exec_putc_backspace (s := s.takeTurn) attr hcur
    rw [State.putBackspace_past_surface _ attr hc] at hexec
    exact step_of_issues_fault hi hexec

/-! ### What a step does to FAULTS and REFUSED (R153) -/

/-- No command sets or clears REFUSED. -/
theorem exec_keeps_refused {i : Instr} {s t : State} (h : exec i s = .next t) : t.refused = s.refused := by
  rcases exec_frame h with ⟨_, hd⟩ | ⟨_, _, hd⟩ | ⟨_, _, _, _, rfl⟩ | ⟨_, _, _, _, _, rfl⟩
  · rw [hd]
  · rw [hd]
  · rfl
  · rfl

/-- A completed step leaves both marks, or its whole effect is the record of a fault that it raises. -/
theorem step_marks_cases {s t : State} (h : step s = .next t) :
    (t.faults = s.faults ∧ t.refused = s.refused) ∨ ∃ k, s.raises k ∧ t = s.takeTurn.recordFault k := by
  rcases step_effects h with ⟨k, _, rfl⟩ | ⟨i, u, _, hexec, hkept, rfl⟩ | ⟨_, _, _, _, _, rfl | rfl⟩ | ⟨_, _, _, _, _, rfl⟩ |
    ⟨_, _, _, _, hwindow⟩ | ⟨_, _, _, _, _, rfl⟩ | ⟨_, _, _, _, _, rfl⟩ | hown | hfault
  · rw [s.takeTurn.deliver_frame k]
    exact .inl ⟨rfl, rfl⟩
  · exact .inl ⟨hkept, (exec_keeps_refused hexec :)⟩
  · exact .inl ⟨rfl, rfl⟩
  · exact .inl ⟨rfl, rfl⟩
  · exact .inl ⟨rfl, rfl⟩
  · rw [hwindow]
    exact .inl ⟨rfl, rfl⟩
  · exact .inl ⟨rfl, rfl⟩
  · exact .inl ⟨rfl, rfl⟩
  · rw [hown]
    exact .inl ⟨rfl, rfl⟩
  · exact .inr hfault

/-- Settles O52: `step_of_raises`, and a step that adds a record raised the fault it names. -/
theorem faultsAreRaisedExactlyWhereTheTableSays : Obligations.FaultsAreRaisedExactlyWhereTheTableSays := by
  refine fun s k => ⟨step_of_raises, fun h => ?_⟩
  rcases step_marks_cases h with ⟨hkept, _⟩ | ⟨k', hraised, hrecord⟩
  · exact absurd hkept (s.takeTurn.recordFault_faults_ne k)
  · rwa [s.takeTurn.recordFault_inj hrecord]

/-! ### Quiescence (R153) -/

/-- Every line of the table of R151 speaks of the statement that the host executes next. -/
theorem executes_of_raises {s : State} {k : FaultKind} (h : s.raises k) : ∃ st, s.executes st := by
  match k, h with
  | .uninitCursor, ⟨_, _, _, hturn, hrunning, _, _, hstmt, _⟩ => exact ⟨_, hturn, hrunning, hstmt⟩
  | .uninitRead (.fb _), ⟨_, _, _, _, _, hx, _⟩ => exact ⟨_, hx⟩
  | .uninitRead .curHi, ⟨_, _, _, _, hx, _⟩ => exact ⟨_, hx⟩
  | .uninitRead .curLo, ⟨_, _, _, _, hx, _⟩ => exact ⟨_, hx⟩
  | .uninitRead .crtcIdx, ⟨_, _, _, hx, _⟩ => exact ⟨_, hx⟩
  | .uninitIndex, ⟨_, .inl ⟨_, _, hx, _⟩⟩ => exact ⟨_, hx⟩
  | .uninitIndex, ⟨_, .inr ⟨_, _, hx, _⟩⟩ => exact ⟨_, hx⟩
  | .surfaceRange _, ⟨_, _, _, _, _, hturn, hrunning, _, _, hstmt, _⟩ => exact ⟨_, hturn, hrunning, hstmt⟩

theorem running_of_raises {s : State} {k : FaultKind} (h : s.raises k) : s.quiescent = false := by
  obtain ⟨_, _, hrunning, _⟩ := executes_of_raises h
  exact hrunning

@[simp] theorem State.recordRefusal_quiescent (s : State) : s.recordRefusal.quiescent = true := by
  simp [State.quiescent]

/-- A refused step, settled, is the turn taken and the refusal recorded (R152). -/
theorem settledStep_of_refused {s : State} {r : Refusal} (h : step s = .refused r) :
    settledStep s = s.takeTurn.recordRefusal := by
  rw [settledStep, show stepTurn s = .refused r from h, State.settle]

/-- The host's turn in a quiescent state passes (log entry 7). -/
theorem step_of_quiescent {s : State} (hq : s.quiescent = true) (hturn : s.turn = .host) : step s = .next s.takeTurn := by
  rw [step, stepTurn, hturn]
  exact if_pos hq

/-- Settles O53, by what a step may do to the two marks, and by the step of a quiescent state. -/
theorem faultsAndRefusalsOnlyMarkTheState : Obligations.FaultsAndRefusalsOnlyMarkTheState := by
  refine ⟨fun s t h => ?_, fun s r h => ?_, fun s => step_of_quiescent⟩
  · rcases step_marks_cases h with ⟨hfaults, hrefused⟩ | ⟨k, hraised, rfl⟩
    · exact ⟨hrefused, .inl hfaults⟩
    · exact ⟨rfl, .inr ⟨k, rfl, running_of_raises hraised, s.takeTurn.recordFault_quiescent k⟩⟩
  · rw [settledStep_of_refused h]
    exact ⟨rfl, s.takeTurn.recordRefusal_quiescent⟩

end Sys2Proof.Machine

/-!
The family 70_reset_and_hazards.md: the values that power-on reset leaves (R170).
-/

namespace Sys2Proof.Machine

/-- A memory that lists no byte holds the mark at every offset. -/
@[simp] theorem Memory.read_nil (o : Nat) : Memory.read [] o = .bot := rfl

/-- Inside FB because no byte is listed, and outside because FB has no such byte (10_state.md R31), whatever the configuration. -/
theorem State.fbByte_resetWith (c : AdmittedConfig) (o : Nat) : (State.resetWith c).fbByte o = .bot := by
  have hread : Memory.read (State.resetWith c).fb o = .bot := Memory.read_nil o
  rw [State.fbByte, hread, ite_self]

/-- Settles O43: the framebuffer by `State.fbByte_resetWith`, the registers and the marks by the fields of the reset state. -/
theorem resetValues : Obligations.ResetValues :=
  ⟨State.fbByte_resetWith Config.platform, rfl, rfl, rfl, rfl, rfl, rfl, rfl, rfl, rfl, rfl⟩

end Sys2Proof.Machine
